-- ==== Sys2Proof/Word.lean ====
section
/-! DEFINITION. The word type of the Field Decoder Unit: one byte of a slice (R7, R30). -/

namespace Sys2Proof

/-- A byte, "an unsigned integer 0 to 255" (R7); one cell of the slice (R30). -/
abbrev Byte := BitVec 8

end Sys2Proof
end

