-- ==== Sys2Proof/Machine/Operands.lean ====
section
/-! DEFINITION. The arithmetic primitives of R8, on unbounded naturals and integers: assembling an operand from bytes (R36, R37,
R52), taking bits, two's complement at a width, and rounding. -/

namespace Sys2Proof

/-- `ule(n, b)`: the little-endian value of a list of bytes, byte `i` weighing 2^(8*i) (R36). -/
def ule : List Byte → Nat
  | [] => 0
  | b :: bs => b.toNat + 2 ^ 8 * ule bs

/-- `ube(n, b)`: the big-endian value of a list of bytes, byte `i` of `n` weighing 2^(8*(n-1-i)) (R37). -/
def ube : List Byte → Nat
  | [] => 0
  | b :: bs => b.toNat * 2 ^ (8 * bs.length) + ube bs

/-- `v[k]` (R7). -/
def bit (v k : Nat) : Bool := v / 2 ^ k % 2 == 1

/-- `v[hi:lo]` (R7). -/
def bits (v hi lo : Nat) : Nat := v / 2 ^ lo % 2 ^ (hi - lo + 1)

/-- `sext_N(v)` (R8). -/
def sext (n v : Nat) : Int := if v < 2 ^ (n - 1) then (v : Int) else (v : Int) - 2 ^ n

/-- `not_N(v)`: all N bits inverted (R8). -/
def notN (n v : Nat) : Nat := 2 ^ n - 1 - v

/-- `neg_N(v)`: "bit-inversion plus one" at width N (R8). -/
def negN (n v : Nat) : Nat := (notN n v + 1) % 2 ^ n

/-- `round_half_up(p, q)`: the nearest integer to p/q, a tie going up (R8). -/
def roundHalfUp (p q : Nat) : Nat := (2 * p + q) / (2 * q)

end Sys2Proof
end

