-- ==== Sys2Proof/Config.lean ====
section
/-! DEFINITION. What is fixed when an instance is built (R6, R18). The constants of R6 are written as numerals where they are used:
OPSEL_BITS = 4 and LEN_BITS = 4 (LEN saturates at 15), N_LANES = W_MAX = 8, MAG0_BITS = 133, MAG1_BITS = 32, RTC_CODES = 0 to 4;
ROUND_TIES = half_away_from_zero is `roundHalfUp` on magnitudes. The tables W(op), DP(op) and RTC-source stand in
Machine/Tables.lean. What is left is the one parameter R6 marks OPEN. -/

namespace Sys2Proof

/-- The parameters R6 marks OPEN, the argument `Params` of R10. They are chosen when an instance is built and no
port reads or writes them (R18, R171). -/
structure Params where
  /-- `LATLNG_SIGNED`: whether LATLNG reads its two patterns as two's complement (R111). -/
  latlngSigned : Bool
deriving DecidableEq, Repr

/-- The parameters with the defaults of R6. -/
def Params.default : Params := { latlngSigned := true }

end Sys2Proof
end

