-- ==== Sys2Proof/Syntax.lean ====
section
/-! DEFINITION. The operations: one constructor for each row of spec/opcode_table.json. OPSEL alone selects the operation
and there are no register, immediate or mode fields (R50, R52), so no constructor has an operand; the slice an
operation works on is held in State. -/

namespace Sys2Proof

/-- The sixteen values of OPSEL: the thirteen operations of R53 and the three reserved codes of R55. -/
inductive Instr where
  /-- 0x0, R70. -/
  | uint8
  /-- 0x1, R71. -/
  | uint16
  /-- 0x2, R72. -/
  | uint32
  /-- 0x3, R73. -/
  | uint16be
  /-- 0x4, R74. -/
  | uint32be
  /-- 0x5, R91. -/
  | uint16fp1
  /-- 0x6, R75. -/
  | unixtime
  /-- 0x7, R92. -/
  | temperature
  /-- 0x8, R96. -/
  | humidity
  /-- 0x9, R110. -/
  | latlng
  /-- 0xA, R120. -/
  | rawfloat
  /-- 0xB, R140. -/
  | bitmap
  /-- 0xC, R142. -/
  | rtcsrc
  /-- 0xD, reserved, R55. -/
  | reservedD
  /-- 0xE, reserved, R55. -/
  | reservedE
  /-- 0xF, reserved, R55. -/
  | reservedF
deriving DecidableEq, Repr

end Sys2Proof
end

