-- ==== Sys2Proof/Machine/State.lean ====
section
/-! DEFINITION. The state of the model as plain data: the request ports (R11), the answer on the response ports (R13, R150),
the static parameters (R6), and the requests the host has yet to issue. The FDU itself stores nothing (R10): what is held
here is what stands on its ports. -/

namespace Sys2Proof.Machine

/-- The contents of the byte lanes as (lane, byte) pairs in one canonical form: lanes strictly rising, all below eight, no
byte zero. An unlisted lane carries 0 (log entry 7, DESIGN CHOICE). `Memory.wf` of Ops.lean says the form. -/
abbrev Memory := List Host.Cell

/-- One request: the input ports of R11. -/
structure Request where
  /-- `OPSEL[3:0]`. -/
  opsel : BitVec 4
  /-- `LEN[3:0]`, the number of bytes in the slice, saturated at 15 (R12). -/
  len : BitVec 4
  /-- The lanes `B[0]` to `B[7]` (R30, R31). -/
  lanes : Memory
deriving DecidableEq, Repr

/-- A sign and magnitude port pair; with `DP` decimal places it denotes (-1)^NEG * MAG / 10^DP (R14). -/
structure Decimal (w : Nat) where
  /-- `NEG`: true means negative. -/
  neg : Bool
  /-- `MAG`, an unsigned integer. -/
  mag : BitVec w
deriving DecidableEq, Repr

/-- The response ports other than ST, which carry a result when ST = 0 (R13). -/
structure Response where
  /-- `WARN`, written by RAWFLOAT (R125). -/
  warn : Bool
  /-- `R0.NEG` and `R0.MAG[132:0]`. -/
  r0 : Decimal 133
  /-- `R1.NEG` and `R1.MAG[31:0]`, written by LATLNG. -/
  r1 : Decimal 32
  /-- `F[0]` to `F[7]`, `F[0]` first, written by BITMAP (R141). -/
  flags : Vector Bool 8
  /-- `FS`, the float's sign bit, written by RAWFLOAT (R121). -/
  fs : Bool
  /-- `FE[7:0]`, the float's exponent field. -/
  fe : BitVec 8
  /-- `FSIG[23:0]`, the float's significand (R122). -/
  fsig : BitVec 24
deriving DecidableEq, Repr

/-- The three faults a transaction can end with, each with its information value (R150). They are alternative
responses, reported on ST; the unit goes on to the next request (R157). -/
inductive FduFault where
  /-- ST = 1: LEN differs from W(OPSEL); reports LEN (R152). -/
  | invalidFieldLength (len : BitVec 4)
  /-- ST = 2: RTCSRC met an unmapped byte; reports the byte (R143). -/
  | unknownEnumValue (byte : Byte)
  /-- ST = 3: OPSEL is a reserved code; reports OPSEL (R151). -/
  | illegalOp (opsel : BitVec 4)
deriving DecidableEq, Repr

/-- What a transaction answers: a complete result or a fault and nothing else (R155, R156). -/
abbrev Answer := Except FduFault Response

/-- The machine: one FDU instance and the list of requests its host has lined up. -/
structure State where
  /-- The static parameters of this instance (R6, R18). -/
  params : Params
  /-- The request on the input ports (R11). -/
  request : Request
  /-- The answer on the output ports (R13). -/
  answer : Answer
  /-- The host's requests not yet issued, the next one first (R177; log entry 3). The MODEL's own field. -/
  pending : List Request
deriving DecidableEq, Repr

/-- Why the model stops. The three faults of R150 are not here: they are answers, and the unit goes on. -/
inductive Fault where
  /-- Raised by `memRead` when bytes outside the slice, or outside the eight lanes, are read: R33 leaves such a read
  undefined and says none occurs. Safe: the model stops where the spec gives no value. No meaning reaches it. -/
  | readOutsideSlice (addr count : Nat)
deriving DecidableEq, Repr

/-- Why the model refuses an instruction. -/
inductive Refusal where
  /-- Raised by an arm of `exec` whose instruction has no meaning yet; no arm does. Safe. -/
  | notModelled (mnemonic : String)
deriving DecidableEq, Repr

/-- The ports before the host has driven a request. R171: they "answer whatever the undriven inputs happen to be and
must not be read"; the model takes all inputs low, code 0 with LEN = 0, and the answer to that (log entry 2, DESIGN CHOICE). -/
def State.reset : State :=
  { params := Params.default
    request := { opsel := 0, len := 0, lanes := [] }
    answer := .error (.invalidFieldLength 0)
    pending := [] }

end Sys2Proof.Machine
end

