-- ==== Sys2Proof/Machine/Tables.lean ====
section
/-! DEFINITION. The constant tables of R19: W(op) and DP(op) of R53, the RTC-source table of R142, and the mnemonics. -/

namespace Sys2Proof

/-- The width table `W(op)` of R53, in bytes; a reserved code has none. -/
def width : Instr → Option Nat
  | .uint8 => some 1
  | .uint16 => some 2
  | .uint32 => some 4
  | .uint16be => some 2
  | .uint32be => some 4
  | .uint16fp1 => some 2
  | .unixtime => some 4
  | .temperature => some 2
  | .humidity => some 2
  | .latlng => some 8
  | .rawfloat => some 4
  | .bitmap => some 1
  | .rtcsrc => some 1
  | .reservedD => none
  | .reservedE => none
  | .reservedF => none

/-- The decimal-places table `DP(op)` of R53; BITMAP and the reserved codes have none. -/
def decimalPlaces : Instr → Option Nat
  | .uint8 => some 0
  | .uint16 => some 0
  | .uint32 => some 0
  | .uint16be => some 0
  | .uint32be => some 0
  | .uint16fp1 => some 1
  | .unixtime => some 0
  | .temperature => some 1
  | .humidity => some 2
  | .latlng => some 6
  | .rawfloat => some 1
  | .bitmap => none
  | .rtcsrc => some 0
  | .reservedD => none
  | .reservedE => none
  | .reservedF => none

/-- The mnemonics of R53, spelled as in spec/opcode_table.json. -/
def mnemonic : Instr → String
  | .uint8 => "UINT8"
  | .uint16 => "UINT16"
  | .uint32 => "UINT32"
  | .uint16be => "UINT16BE"
  | .uint32be => "UINT32BE"
  | .uint16fp1 => "UINT16FP1"
  | .unixtime => "UNIXTIME"
  | .temperature => "TEMPERATURE"
  | .humidity => "HUMIDITY"
  | .latlng => "LATLNG"
  | .rawfloat => "RAWFLOAT"
  | .bitmap => "BITMAP"
  | .rtcsrc => "RTCSRC"
  | .reservedD => "RESERVED_D"
  | .reservedE => "RESERVED_E"
  | .reservedF => "RESERVED_F"

/-- The symbols of the RTC-source table (R19, R142). -/
inductive RtcSource where
  | gps
  | rtc
  | lora
  | unsynched
  | setUnknown
deriving DecidableEq, Repr

/-- The code of a symbol in the RTC-source table (R142). -/
def RtcSource.code : RtcSource → Nat
  | .gps => 0
  | .rtc => 1
  | .lora => 2
  | .unsynched => 3
  | .setUnknown => 4

/-- The RTC-source table read by code, as a consumer applies it to R0 (R142). -/
def rtcSource : Nat → Option RtcSource
  | 0 => some .gps
  | 1 => some .rtc
  | 2 => some .lora
  | 3 => some .unsynched
  | 4 => some .setUnknown
  | _ => none

end Sys2Proof
end

