-- ==== Sys2Proof/Machine/Ops.lean ====
section
/-! DEFINITION. The named operations over the lanes and the ports: reading the slice (R33), the length check (R152), writing the
response ports (R13), taking a fault (R156), and the host's driving of a request (R160, R174). -/

namespace Sys2Proof.Machine

/-! ### The lanes -/

/-- The byte on a lane; an unlisted lane carries 0 (log entry 7). -/
def Memory.read : Memory → Nat → Byte
  | [], _ => 0
  | (b, v) :: m, a => if a = b then v else Memory.read m a

/-- `wfFrom lo m`: the lanes of `m` rise strictly from `lo` on, stay below 8, and none carries 0. -/
def Memory.wfFrom : Nat → Memory → Bool
  | _, [] => true
  | lo, (a, v) :: m => decide (lo ≤ a) && decide (a < 8) && decide (v ≠ 0) && Memory.wfFrom (a + 1) m

/-- The canonical form of the lanes. -/
def Memory.wf (m : Memory) : Bool := Memory.wfFrom 0 m

/-- Put a byte at a place of the list, dropping the entry when the byte is 0. -/
def Memory.insert : Memory → Nat → Byte → Memory
  | [], a, v => if v = 0 then [] else [(a, v)]
  | (b, w) :: m, a, v =>
    if a < b then (if v = 0 then (b, w) :: m else (a, v) :: (b, w) :: m)
    else if a = b then (if v = 0 then m else (a, v) :: m)
    else (b, w) :: Memory.insert m a v

/-- The HOST drives one lane; there is no lane above B[7] (R11). No operation of the FDU writes (R35). -/
def Memory.drive (m : Memory) (a : Nat) (v : Byte) : Memory :=
  if a < 8 then Memory.insert m a v else m

/-- A list of bytes driven on the lanes from lane `a` on; bytes past the last lane are not presented (R12). -/
def Memory.ofBytesFrom : Nat → List Byte → Memory
  | _, [] => []
  | a, b :: bs =>
    if a < 8 ∧ b ≠ 0 then (a, b) :: Memory.ofBytesFrom (a + 1) bs else Memory.ofBytesFrom (a + 1) bs

/-- A slice on the lanes: `B[i]` is `bytes[i]` (R11, R31). -/
def Memory.ofBytes (bs : List Byte) : Memory := Memory.ofBytesFrom 0 bs

/-! ### Requests -/

/-- `B[i]` of a request (R8, R11). -/
def Request.byte (r : Request) (i : Nat) : Byte := r.lanes.read i

/-- The number of bytes of the slice that stand on lanes: min(LEN, 8) (R51). -/
def Request.onLanes (r : Request) : Nat := min r.len.toNat 8

/-- A slice of any length presented as a request: LEN saturates at 15 and the first eight bytes stand on the
lanes (R12). -/
def Request.ofSlice (op : BitVec 4) (bs : List Byte) : Request :=
  { opsel := op
    len := BitVec.ofNat 4 (min bs.length 15)
    lanes := Memory.ofBytes bs }

/-! ### Evaluating a transaction -/

/-- Why the evaluation of a transaction ends without a result. -/
inductive Stop where
  /-- `raise F(info)` (R8). -/
  | raise (f : FduFault)
  /-- A read R33 leaves undefined. -/
  | undefinedRead (addr count : Nat)
deriving DecidableEq, Repr

/-- "if LEN != W then raise InvalidFieldLength(LEN)", a test for equality (R152). -/
def checkLen (r : Request) (w : Nat) : Except Stop Unit :=
  if r.len.toNat = w then .ok () else .error (.raise (.invalidFieldLength r.len))

/-- `MemRead(a, n)` (R33): the bytes `B[a]` to `B[a+n-1]`, defined only inside the slice. -/
def memRead (r : Request) (a n : Nat) : Except Stop (List Byte) :=
  if a + n ≤ r.onLanes then .ok ((List.range n).map fun i => r.byte (a + i)) else .error (.undefinedRead a n)

/-- Every response port driven 0 (R13). -/
def Response.zero : Response :=
  { warn := false
    r0 := { neg := false, mag := 0 }
    r1 := { neg := false, mag := 0 }
    flags := #v[false, false, false, false, false, false, false, false]
    fs := false
    fe := 0
    fsig := 0 }

/-- `R0 <- (neg, mag)`, every other port 0 (R8, R13). -/
def Response.number (neg : Bool) (mag : Nat) : Response :=
  { Response.zero with r0 := { neg := neg, mag := BitVec.ofNat 133 mag } }

/-- Taking a fault (R156): it is delivered on ST in the same transaction, replaces the whole result, and nothing is
saved, vectored or latched; the request and the host's list stand as they are. -/
def State.takeFault (s : State) (f : FduFault) : State := { s with answer := .error f }

/-- Delivering a complete result with ST = 0 (R155). -/
def State.giveResult (s : State) (r : Response) : State := { s with answer := .ok r }

/-- The end of a transaction: the answer stands on the response ports and the machine goes on (R155, R157). -/
def State.deliver (s : State) : Except Stop Response → Host.Outcome State Fault Refusal
  | .ok r => .next (s.giveResult r)
  | .error (.raise f) => .next (s.takeFault f)
  | .error (.undefinedRead a n) => .fault (.readOutsideSlice a n)

/-! ### The host's side of the ports -/

/-- Line a request up as the next one the host issues. -/
def State.drive (s : State) (q : Request) : State := { s with pending := q :: s.pending }

/-- The request the next transaction evaluates stands on the input ports: the host's next one, or, when it has none,
the one it still holds (R174; log entry 3). -/
def State.present (s : State) : State :=
  match s.pending with
  | [] => s
  | q :: qs => { s with request := q, pending := qs }

/-- The request a host that knows the schema issues for an operation: `LEN = W(op)`, 0 for a reserved code (R160). -/
def Request.forOp (op : BitVec 4) (w : Nat) (lanes : Memory) : Request :=
  { opsel := op, len := BitVec.ofNat 4 w, lanes := lanes }

end Sys2Proof.Machine
end

