-- ==== Sys2Proof/WellFormed.lean ====
section
/-! DEFINITION. The checks: which codes are operations (R54, R55), the canonical form of lanes, and the contract a request must
meet to be answered with a result (R152, R143, R173). -/

namespace Sys2Proof

/-- An instruction is well formed when its code is one of the thirteen operations of R53; the reserved codes of R55
are not. -/
def Instr.wf (i : Instr) : Bool := (width i).isSome

namespace Machine

/-- The lanes of a request are in canonical form. -/
def Request.wf (r : Request) : Bool := r.lanes.wf

/-- LEN is the width of the operation (R152). -/
def Request.lenOk (i : Instr) (r : Request) : Bool := decide (width i = some r.len.toNat)

/-- The data is one the operation maps: only RTCSRC leaves any byte unmapped (R58, R143). -/
def Request.dataOk (i : Instr) (r : Request) : Bool := decide (i = .rtcsrc → (r.byte 0).toNat ≤ 4)

/-- The contract of an operation: what a request must meet to be answered with a result. -/
def Request.meets (i : Instr) (r : Request) : Bool := i.wf && r.lenOk i && r.dataOk i

/-- Every request of a state has canonical lanes. -/
def State.wf (s : State) : Bool := s.request.wf && s.pending.all Request.wf

end Machine

end Sys2Proof
end

