-- ==== Sys2Proof/Decode.lean ====
section
/-! DEFINITION. Decoding the operation select (R53, R54), the encoder from the same table, and the request image of R51. -/

namespace Sys2Proof

open Machine

/-- The operation select map of R53 and R55; decoding looks at OPSEL only and is total (R54). OPSEL has four bits, so
the last arm is code 0xF alone. -/
def decode (op : BitVec 4) : Instr :=
  match op.toNat with
  | 0x0 => .uint8
  | 0x1 => .uint16
  | 0x2 => .uint32
  | 0x3 => .uint16be
  | 0x4 => .uint32be
  | 0x5 => .uint16fp1
  | 0x6 => .unixtime
  | 0x7 => .temperature
  | 0x8 => .humidity
  | 0x9 => .latlng
  | 0xA => .rawfloat
  | 0xB => .bitmap
  | 0xC => .rtcsrc
  | 0xD => .reservedD
  | 0xE => .reservedE
  | _ => .reservedF

/-- The code of an operation (R53, R55). -/
def encode : Instr → BitVec 4
  | .uint8 => 0x0
  | .uint16 => 0x1
  | .uint32 => 0x2
  | .uint16be => 0x3
  | .uint32be => 0x4
  | .uint16fp1 => 0x5
  | .unixtime => 0x6
  | .temperature => 0x7
  | .humidity => 0x8
  | .latlng => 0x9
  | .rawfloat => 0xA
  | .bitmap => 0xB
  | .rtcsrc => 0xC
  | .reservedD => 0xD
  | .reservedE => 0xE
  | .reservedF => 0xF

/-- The row of spec/opcode_table.json that a word of it stands for. The table's mask is 0xF: bits 3 to 0 are OPSEL and an
instruction has no other bits; LEN and the lanes are ports of their own (R50; log entry 8). -/
def decodeTableWord (_nbits w : Nat) : Option Instr := some (decode (BitVec.ofNat 4 w))

/-- Why a list of bytes is not a request image (R51). -/
inductive ImageError where
  /-- There is no first byte. -/
  | empty
  /-- The image announces more bytes than follow. -/
  | short (wanted got : Nat)
deriving DecidableEq, Repr

/-- Read a request image (R51): the byte OPSEL * 16 + LEN, then the bytes on the lanes; what follows is returned. -/
def decodeImage : List Byte → Except ImageError (Request × List Byte)
  | [] => .error .empty
  | h :: bs =>
    let len := BitVec.ofNat 4 (bits h.toNat 3 0)
    let n := min len.toNat 8
    if bs.length < n then .error (.short n bs.length)
    else
      .ok ({ opsel := BitVec.ofNat 4 (bits h.toNat 7 4)
             len := len
             lanes := Memory.ofBytes (bs.take n) }, bs.drop n)

/-- The request image of a request (R51). -/
def encodeImage (r : Request) : List Byte :=
  BitVec.ofNat 8 (r.opsel.toNat * 16 + r.len.toNat) :: (List.range r.onLanes).map r.byte

end Sys2Proof
end

