-- ==== Sys2Proof/Machine/Coordinate.lean ====
section
/-! DEFINITION. The coordinate pair decoder: LATLNG (R110 to R112). -/

namespace Sys2Proof.Machine

/-- The sign of `coord(p)` (R110): bit 31 in signed mode, never set in unsigned mode (R111). -/
def coordNeg (signed : Bool) (p : Nat) : Bool := signed && bit p 31

/-- The magnitude of `coord(p)` (R110): inversion plus one at width 32 when negative. -/
def coordMag (signed : Bool) (p : Nat) : Nat := if coordNeg signed p then negN 32 p else p

/-- The two results of LATLNG for two 32-bit patterns, latitude on R0 and longitude on R1 (R110, R112). -/
def coordinatePair (signed : Bool) (lat lng : Nat) : Response :=
  { Response.number (coordNeg signed lat) (coordMag signed lat) with
    r1 := { neg := coordNeg signed lng, mag := BitVec.ofNat 32 (coordMag signed lng) } }

/-- The pseudocode of LATLNG (R110): two little-endian groups of four bytes, neither range-checked (R112). -/
def latlngDatapath (p : Params) (r : Request) : Except Stop Response := do
  checkLen r 8
  let lat ← memRead r 0 4
  let lng ← memRead r 4 4
  return coordinatePair p.latlngSigned (ule lat) (ule lng)

/-- LATLNG (R110). -/
def execLatlng (s : State) : Host.Outcome State Fault Refusal := s.deliver (latlngDatapath s.params s.request)

end Sys2Proof.Machine
end

