-- ==== Sys2Proof/Machine/FixedPoint.lean ====
section
/-! DEFINITION. The fixed-point scaler (R90): UINT16FP1, TEMPERATURE, HUMIDITY. The unit delivers the integer; the value is read
with the operation's decimal places. Only TEMPERATURE changes the scale, and only it rounds. -/

namespace Sys2Proof.Machine

/-- The common shape of UINT16FP1 and HUMIDITY: a little-endian 16-bit count, returned as it is (R90, R91, R96). -/
def scaledUnsigned16 (r : Request) : Except Stop Response := do
  checkLen r 2
  let b ← memRead r 0 2
  return Response.number false (ule b)

/-- The magnitude of a 16-bit two's-complement pattern, by inversion plus one (R94). -/
def magnitude16 (x : Nat) : Nat := if bit x 15 then negN 16 x else x

/-- Hundredths to tenths: the nearest tenth, a tie away from zero (R95). -/
def hundredthsToTenths (m : Nat) : Nat := (m + 5) / 10

/-- The pseudocode of TEMPERATURE (R92): big-endian (R93), the sign bit kept even at magnitude 0 (R95). -/
def temperatureDatapath (r : Request) : Except Stop Response := do
  checkLen r 2
  let b ← memRead r 0 2
  let x := ube b
  return Response.number (bit x 15) (hundredthsToTenths (magnitude16 x))

/-- UINT16FP1 (R91), in tenths. -/
def execUint16fp1 (s : State) : Host.Outcome State Fault Refusal := s.deliver (scaledUnsigned16 s.request)

/-- TEMPERATURE (R92), in tenths. -/
def execTemperature (s : State) : Host.Outcome State Fault Refusal := s.deliver (temperatureDatapath s.request)

/-- HUMIDITY (R96), in hundredths. -/
def execHumidity (s : State) : Host.Outcome State Fault Refusal := s.deliver (scaledUnsigned16 s.request)

end Sys2Proof.Machine
end

