-- ==== Sys2Proof/Machine/FlagsEnum.lean ====
section
/-! DEFINITION. The flag unpacker and the enumeration check: BITMAP (R140, R141) and RTCSRC (R142, R143). -/

namespace Sys2Proof.Machine

/-- The eight booleans of a byte, most significant bit first: `F[k] = B[0][7-k]` (R141). -/
def flagsOf (v : Nat) : Vector Bool 8 :=
  #v[bit v 7, bit v 6, bit v 5, bit v 4, bit v 3, bit v 2, bit v 1, bit v 0]

/-- The pseudocode of BITMAP (R140). -/
def bitmapDatapath (r : Request) : Except Stop Response := do
  checkLen r 1
  let b ← memRead r 0 1
  return { Response.zero with flags := flagsOf (ule b) }

/-- The pseudocode of RTCSRC (R142): the length is checked before the value (R154). -/
def rtcsrcDatapath (r : Request) : Except Stop Response := do
  checkLen r 1
  let b ← memRead r 0 1
  if 4 < ule b then .error (.raise (.unknownEnumValue (r.byte 0)))
  return Response.number false (ule b)

/-- BITMAP (R140). -/
def execBitmap (s : State) : Host.Outcome State Fault Refusal := s.deliver (bitmapDatapath s.request)

/-- RTCSRC (R142). -/
def execRtcsrc (s : State) : Host.Outcome State Fault Refusal := s.deliver (rtcsrcDatapath s.request)

end Sys2Proof.Machine
end

