-- ==== Sys2Proof/Machine/IntegerUnpack.lean ====
section
/-! DEFINITION. The integer unpacker (R76): UINT8, UINT16, UINT32, UINT16BE, UINT32BE, UNIXTIME. Each assembles its slice
into one non-negative integer and returns it unchanged. -/

namespace Sys2Proof.Machine

/-- The common shape of R76 for a little-endian slice of `w` bytes. -/
def littleEndianInteger (w : Nat) (r : Request) : Except Stop Response := do
  checkLen r w
  let b ← memRead r 0 w
  return Response.number false (ule b)

/-- The common shape of R76 for a big-endian slice of `w` bytes. -/
def bigEndianInteger (w : Nat) (r : Request) : Except Stop Response := do
  checkLen r w
  let b ← memRead r 0 w
  return Response.number false (ube b)

/-- UINT8 (R70). -/
def execUint8 (s : State) : Host.Outcome State Fault Refusal := s.deliver (littleEndianInteger 1 s.request)

/-- UINT16 (R71). -/
def execUint16 (s : State) : Host.Outcome State Fault Refusal := s.deliver (littleEndianInteger 2 s.request)

/-- UINT32 (R72). -/
def execUint32 (s : State) : Host.Outcome State Fault Refusal := s.deliver (littleEndianInteger 4 s.request)

/-- UINT16BE (R73). -/
def execUint16be (s : State) : Host.Outcome State Fault Refusal := s.deliver (bigEndianInteger 2 s.request)

/-- UINT32BE (R74). -/
def execUint32be (s : State) : Host.Outcome State Fault Refusal := s.deliver (bigEndianInteger 4 s.request)

/-- UNIXTIME, the raw-integer variant (R75): a count of seconds, no clock is read (R164). -/
def execUnixtime (s : State) : Host.Outcome State Fault Refusal := s.deliver (littleEndianInteger 4 s.request)

end Sys2Proof.Machine
end

