-- ==== Sys2Proof/Machine/Flags.lean ====
section
/-! DEFINITION. The status outputs ST and WARN (R17): recomputed by every transaction, never sticky, never an input. -/

namespace Sys2Proof.Machine

/-- The code on `ST[1:0]` that goes with an answer (R150). -/
def statusCode : Answer → BitVec 2
  | .ok _ => 0
  | .error (.invalidFieldLength _) => 1
  | .error (.unknownEnumValue _) => 2
  | .error (.illegalOp _) => 3

/-- The port `ST[1:0]` (R13, R17). -/
def State.st (s : State) : BitVec 2 := statusCode s.answer

/-- `WARN` for a float whose exponent field is `fe` (R125). -/
def exponentWarning (fe : Nat) : Bool := fe == 255

end Sys2Proof.Machine
end

