-- ==== Sys2Proof/Machine/RawFloat.lean ====
section
/-! DEFINITION. The IEEE-754 single-precision reconstructor: RAWFLOAT (R120 to R127), in integer arithmetic on the 32-bit
pattern. -/

namespace Sys2Proof.Machine

/-- `FS`, bit 31 (R121). -/
def floatSign (p : Nat) : Bool := bit p 31

/-- `FE`, bits 30 to 23 (R121). -/
def floatExponent (p : Nat) : Nat := bits p 30 23

/-- `FM`, bits 22 to 0 (R121). -/
def floatFraction (p : Nat) : Nat := bits p 22 0

/-- `FSIG`: the implicit leading bit is set unless the exponent field is 0 (R122). -/
def floatSignificand (p : Nat) : Nat :=
  if floatExponent p = 0 then floatFraction p else floatFraction p + 2 ^ 23

/-- Ten times the magnitude of the value of R123, rounded to the nearest integer, a tie away from zero (R124). The
formula is applied at exponent field 0 and 255 as it stands (R123, R125). -/
def floatTenths (fe fsig : Nat) : Nat :=
  if 150 ≤ fe then 10 * fsig * 2 ^ (fe - 150) else (10 * fsig + 2 ^ (149 - fe)) / 2 ^ (150 - fe)

/-- The response to a 32-bit pattern (R120): the sign is kept at magnitude 0 (R124), and WARN marks exponent field
255 (R125). -/
def floatResponse (p : Nat) : Response :=
  { Response.number (floatSign p) (floatTenths (floatExponent p) (floatSignificand p)) with
    warn := exponentWarning (floatExponent p)
    fs := floatSign p
    fe := BitVec.ofNat 8 (floatExponent p)
    fsig := BitVec.ofNat 24 (floatSignificand p) }

/-- The pseudocode of RAWFLOAT (R120). -/
def rawfloatDatapath (r : Request) : Except Stop Response := do
  checkLen r 4
  let b ← memRead r 0 4
  return floatResponse (ule b)

/-- RAWFLOAT (R120). -/
def execRawfloat (s : State) : Host.Outcome State Fault Refusal := s.deliver (rawfloatDatapath s.request)

end Sys2Proof.Machine
end

