-- ==== Sys2Proof/Machine/Reserved.lean ====
section
/-! DEFINITION. The reserved operation selects 0xD, 0xE and 0xF (R55, R151): IllegalOp whatever LEN and the bytes are, and no byte
is read. -/

namespace Sys2Proof.Machine

/-- OPSEL 0xD (R55, R151). -/
def execReservedD (s : State) : Host.Outcome State Fault Refusal := s.deliver (.error (.raise (.illegalOp 0xD)))

/-- OPSEL 0xE (R55, R151). -/
def execReservedE (s : State) : Host.Outcome State Fault Refusal := s.deliver (.error (.raise (.illegalOp 0xE)))

/-- OPSEL 0xF (R55, R151). -/
def execReservedF (s : State) : Host.Outcome State Fault Refusal := s.deliver (.error (.raise (.illegalOp 0xF)))

end Sys2Proof.Machine
end

