-- ==== Sys2Proof/Machine/Dispatch.lean ====
section
/-! DEFINITION. One arm per operation select (R53, R55). -/

namespace Sys2Proof.Machine

def exec (i : Instr) (s : State) : Host.Outcome State Fault Refusal :=
  match i with
  | .uint8 => Sys2Proof.Machine.execUint8 s
  | .uint16 => Sys2Proof.Machine.execUint16 s
  | .uint32 => Sys2Proof.Machine.execUint32 s
  | .uint16be => Sys2Proof.Machine.execUint16be s
  | .uint32be => Sys2Proof.Machine.execUint32be s
  | .uint16fp1 => Sys2Proof.Machine.execUint16fp1 s
  | .unixtime => Sys2Proof.Machine.execUnixtime s
  | .temperature => Sys2Proof.Machine.execTemperature s
  | .humidity => Sys2Proof.Machine.execHumidity s
  | .latlng => Sys2Proof.Machine.execLatlng s
  | .rawfloat => Sys2Proof.Machine.execRawfloat s
  | .bitmap => Sys2Proof.Machine.execBitmap s
  | .rtcsrc => Sys2Proof.Machine.execRtcsrc s
  | .reservedD => Sys2Proof.Machine.execReservedD s
  | .reservedE => Sys2Proof.Machine.execReservedE s
  | .reservedF => Sys2Proof.Machine.execReservedF s

end Sys2Proof.Machine
end

