-- ==== Sys2Proof/Machine/Step.lean ====
section
/-! DEFINITION. One step is one transaction (R10, R177): the host's next request stands on the input ports, OPSEL is decoded (R54),
and the answer stands on the response ports. -/

namespace Sys2Proof.Machine

/-- One transaction. -/
def step (s : State) : Host.Outcome State Fault Refusal :=
  exec (decode s.present.request.opsel) s.present

/-- The host lines up, as its next request, one for the table word's operation: OPSEL from the word, `LEN = W(OPSEL)` as
R160 has it, the lanes as they stand (log entries 4 and 9). -/
def State.withFetchWord (s : State) (_nbits w : Nat) : State :=
  let op := BitVec.ofNat 4 w
  s.drive (Request.forOp op ((width (decode op)).getD 0) s.request.lanes)

end Sys2Proof.Machine
end

