-- ==== Sys2Proof/Machine/FourBlocks.lean ====
section
/-! DEFINITION. The restricted model of R56: the four named blocks alone, with 0xB and 0xC reserved as R55 reserves 0xD to 0xF. -/

namespace Sys2Proof.Machine

/-- `exec` of a unit that has the four named blocks of R1 only (R3, R56). -/
def execFourBlocks (i : Instr) (s : State) : Host.Outcome State Fault Refusal :=
  match i with
  | .bitmap => s.deliver (.error (.raise (.illegalOp 0xB)))
  | .rtcsrc => s.deliver (.error (.raise (.illegalOp 0xC)))
  | .uint8 => exec .uint8 s
  | .uint16 => exec .uint16 s
  | .uint32 => exec .uint32 s
  | .uint16be => exec .uint16be s
  | .uint32be => exec .uint32be s
  | .uint16fp1 => exec .uint16fp1 s
  | .unixtime => exec .unixtime s
  | .temperature => exec .temperature s
  | .humidity => exec .humidity s
  | .latlng => exec .latlng s
  | .rawfloat => exec .rawfloat s
  | .reservedD => exec .reservedD s
  | .reservedE => exec .reservedE s
  | .reservedF => exec .reservedF s

end Sys2Proof.Machine
end

