-- ==== Sys2Proof/Machine/PureFunction.lean ====
section
/-! DEFINITION. The FDU as R10 writes it, a pure function of the parameters and the request, in the list view of R12: the slice is a
list of bytes of any length and LEN is its length. It is written apart from the meanings of `exec`: operands by the explicit
sums of R52, signed readings by `sext` (R94, R110), the float by one rounding of the value of R123. That the two views agree is
a statement of Certificates/Slice0/Obligations.lean. -/

namespace Sys2Proof.Machine

/-- InvalidFieldLength for a slice; the LEN it reports saturates at 15 (R12, R152). -/
def wrongLength (slice : List Byte) : Except FduFault Response :=
  .error (.invalidFieldLength (BitVec.ofNat 4 (min slice.length 15)))

/-- A result 0 that is an unsigned number, every other port 0 (R13, R76). -/
def unsignedNumber (v : Nat) : Except FduFault Response := .ok (Response.number false v)

/-- The operand of two bytes, the low one first (R52). -/
def operand16 (lo hi : Byte) : Nat := lo.toNat + 256 * hi.toNat

/-- The operand of four bytes, the low one first (R52). -/
def operand32 (b0 b1 b2 b3 : Byte) : Nat :=
  b0.toNat + 2 ^ 8 * b1.toNat + 2 ^ 16 * b2.toNat + 2 ^ 24 * b3.toNat

/-- A signed integer in hundredths, to tenths (R94, R95). -/
def tenthsOfHundredths (x : Int) : Response := Response.number (decide (x < 0)) (roundHalfUp x.natAbs 10)

/-- A coordinate pattern as an integer number of millionths of a degree under either reading of R111. -/
def coordinateValue (signed : Bool) (p : Nat) : Int := if signed then sext 32 p else (p : Int)

/-- The response to two coordinates (R110). -/
def pairResponse (lat lng : Int) : Response :=
  { Response.zero with
    r0 := { neg := decide (lat < 0), mag := BitVec.ofNat 133 lat.natAbs }
    r1 := { neg := decide (lng < 0), mag := BitVec.ofNat 32 lng.natAbs } }

/-- The response to a float's three fields: R0 is ten times the value of R123, rounded once (R124). -/
def fieldsResponse (sign : Bool) (fe fm : Nat) : Response :=
  let fsig := if fe = 0 then fm else 2 ^ 23 + fm
  { Response.zero with
    warn := decide (fe = 255)
    r0 := { neg := sign, mag := BitVec.ofNat 133 (roundHalfUp (10 * fsig * 2 ^ fe) (2 ^ 150)) }
    fs := sign
    fe := BitVec.ofNat 8 fe
    fsig := BitVec.ofNat 24 fsig }

/-- `fdu : Params -> Request -> Except Fault Response` (R10), the request given as OPSEL and a slice (R12). -/
def fdu (p : Params) (op : BitVec 4) (slice : List Byte) : Except FduFault Response :=
  match decode op with
  | .uint8 => match slice with
    | [b0] => unsignedNumber b0.toNat
    | _ => wrongLength slice
  | .uint16 => match slice with
    | [b0, b1] => unsignedNumber (operand16 b0 b1)
    | _ => wrongLength slice
  | .uint32 => match slice with
    | [b0, b1, b2, b3] => unsignedNumber (operand32 b0 b1 b2 b3)
    | _ => wrongLength slice
  | .uint16be => match slice with
    | [b0, b1] => unsignedNumber (operand16 b1 b0)
    | _ => wrongLength slice
  | .uint32be => match slice with
    | [b0, b1, b2, b3] => unsignedNumber (operand32 b3 b2 b1 b0)
    | _ => wrongLength slice
  | .uint16fp1 => match slice with
    | [b0, b1] => unsignedNumber (operand16 b0 b1)
    | _ => wrongLength slice
  | .unixtime => match slice with
    | [b0, b1, b2, b3] => unsignedNumber (operand32 b0 b1 b2 b3)
    | _ => wrongLength slice
  | .temperature => match slice with
    | [b0, b1] => .ok (tenthsOfHundredths (sext 16 (operand16 b1 b0)))
    | _ => wrongLength slice
  | .humidity => match slice with
    | [b0, b1] => unsignedNumber (operand16 b0 b1)
    | _ => wrongLength slice
  | .latlng => match slice with
    | [b0, b1, b2, b3, b4, b5, b6, b7] =>
      .ok (pairResponse (coordinateValue p.latlngSigned (operand32 b0 b1 b2 b3))
        (coordinateValue p.latlngSigned (operand32 b4 b5 b6 b7)))
    | _ => wrongLength slice
  | .rawfloat => match slice with
    | [b0, b1, b2, b3] =>
      .ok (fieldsResponse (decide (128 ≤ b3.toNat)) (b3.toNat % 128 * 2 + b2.toNat / 128)
        (b2.toNat % 128 * 2 ^ 16 + b1.toNat * 2 ^ 8 + b0.toNat))
    | _ => wrongLength slice
  | .bitmap => match slice with
    | [b0] => .ok { Response.zero with flags := Vector.ofFn fun k => b0.getMsbD k }
    | _ => wrongLength slice
  | .rtcsrc => match slice with
    | [b0] => if (rtcSource b0.toNat).isSome then unsignedNumber b0.toNat else .error (.unknownEnumValue b0)
    | _ => wrongLength slice
  | .reservedD => .error (.illegalOp op)
  | .reservedE => .error (.illegalOp op)
  | .reservedF => .error (.illegalOp op)

end Sys2Proof.Machine
end

