-- ==== Sys2Proof/Machine/RefHost.lean ====
section
/-! DEFINITION. The reference host of R160 to R162, as the programs of spec/95_test_vectors.md section 4 use it: it cuts slices from
a payload, checks the total length first, issues one request a field through `step`, and abandons the record at the first
fault. Field names, port dispatch and the error envelope of R163 are outside (R4). -/

namespace Sys2Proof.Machine

/-- A host script: an operation and the payload offset of its slice, for each field (R60, R177). -/
abbrev Script := List (Instr × Nat)

/-- How a run of the host ends (R177). -/
inductive HostOutcome where
  /-- The results of all requests, in request order. -/
  | record (results : List Response)
  /-- The host's own error: the payload is shorter than the script needs; no request was issued (R161). -/
  | bufferTooShort
  /-- A request faulted; the record is abandoned (R162). -/
  | fieldFault (f : FduFault)
  /-- The machine stopped inside a transaction: no state reaches this. -/
  | stopped (f : Fault)
  /-- The machine refused an operation: no state reaches this. -/
  | refused (r : Refusal)
deriving DecidableEq, Repr

/-- Fields laid out "left-to-right without overlap, one slice per field, in descriptor order" from an offset on (R160). -/
def layoutFrom : Nat → List Instr → Script
  | _, [] => []
  | off, i :: is => (i, off) :: layoutFrom (off + (width i).getD 0) is

/-- The payload length a script needs: the largest off + W(op) (R161). -/
def bytesNeeded : Script → Nat
  | [] => 0
  | (i, off) :: rest => max (off + (width i).getD 0) (bytesNeeded rest)

/-- The slice of a field: `B[k] = payload[off + k]` for k below W(op) (R31, R160). -/
def fieldSlice (payload : List Byte) (i : Instr) (off : Nat) : List Byte :=
  (payload.drop off).take ((width i).getD 0)

/-- The request the host issues for a field (R160). -/
def fieldRequest (payload : List Byte) (f : Instr × Nat) : Request :=
  Request.ofSlice (encode f.1) (fieldSlice payload f.1 f.2)

/-- Issue requests in order, one step each; the first fault ends the run and earlier results are discarded (R162). -/
def runRequests : List Request → State → HostOutcome
  | [], _ => .record []
  | q :: qs, s =>
    match step (s.drive q) with
    | .next t =>
      match t.answer with
      | .error f => .fieldFault f
      | .ok r =>
        match runRequests qs t with
        | .record rs => .record (r :: rs)
        | .bufferTooShort => .bufferTooShort
        | .fieldFault f => .fieldFault f
        | .stopped f => .stopped f
        | .refused f => .refused f
    | .fault f => .stopped f
    | .refused f => .refused f

/-- A whole run: the length is checked before any request is issued (R161, R173, R177). -/
def runScript (s : State) (payload : List Byte) (script : Script) : HostOutcome :=
  if payload.length < bytesNeeded script then .bufferTooShort
  else runRequests (script.map (fieldRequest payload)) s

end Sys2Proof.Machine
end

