-- ==== Sys2Proof/Machine/Text.lean ====
section
/-! DEFINITION. How a consumer reads a result: the exact decimal value of R14 and the one-decimal text of R8. Both are functions of
the ports and are not ports. -/

namespace Sys2Proof.Machine

/-- The rational (-1)^NEG * MAG / 10^DP a result denotes (R14). -/
def Decimal.value {w : Nat} (dp : Nat) (d : Decimal w) : ℚ :=
  (if d.neg then -1 else 1) * (d.mag.toNat : ℚ) / 10 ^ dp

/-- `text1(neg, t)`: the sign, the digits of floor(t/10) with no leading zeros, a point, and the digit t mod 10 (R8). -/
def text1 (neg : Bool) (t : Nat) : List Char :=
  (if neg then ['-'] else []) ++ Nat.toDigits 10 (t / 10) ++ ['.', Nat.digitChar (t % 10)]

/-- The text of the operations whose source value is a string with one decimal digit (R14). -/
def resultText : Instr → Response → Option (List Char)
  | .uint16fp1, r => some (text1 r.r0.neg r.r0.mag.toNat)
  | .temperature, r => some (text1 r.r0.neg r.r0.mag.toNat)
  | .rawfloat, r => some (text1 r.r0.neg r.r0.mag.toNat)
  | .uint8, _ => none
  | .uint16, _ => none
  | .uint32, _ => none
  | .uint16be, _ => none
  | .uint32be, _ => none
  | .unixtime, _ => none
  | .humidity, _ => none
  | .latlng, _ => none
  | .bitmap, _ => none
  | .rtcsrc, _ => none
  | .reservedD, _ => none
  | .reservedE, _ => none
  | .reservedF, _ => none

end Sys2Proof.Machine
end

