-- ==== Sys2Proof/Safety.lean ====
section
/-! DEFINITION. What counts as a safe run: every transaction is answered, with a result or with one of the faults of R150, and what
stands on the response ports is the answer to what stands on the request ports. -/

namespace Sys2Proof.Machine

/-- The transaction is answered: the model neither stops nor refuses. -/
def Answered : Host.Outcome State Fault Refusal → Prop
  | .next _ => True
  | .fault _ => False
  | .refused _ => False

/-- The unit is combinational (R10): evaluating the request on the input ports gives the answer that already stands on
the output ports, and nothing else changes. -/
def Settled (s : State) : Prop := exec (decode s.request.opsel) s = .next s

/-- The invariant of every step: canonical lanes in every request, and settled ports. -/
def Inv (s : State) : Prop := s.wf = true ∧ Settled s

end Sys2Proof.Machine
end

