-- ==== Sys2Proof/Certificates/Slice0/Obligations.lean ====
section
/-! DEFINITION. The statements for the provers. Operand values are written with `operand16` and `operand32`, the explicit sums of R52;
magnitudes are stated through `toNat`, so that each statement also says that no port truncates. -/

open Sys2Proof Sys2Proof.Machine

/-! ### Encoding and fetching -/

/-- The codes of R53 and R55, written out as bits, three words of the opcode table, and the columns W and DP of the map.
That a table word is OPSEL in bits 3 to 0 and nothing else is the model's reading (log entry 8, DEDUCED). -/
def Obligations.OperationCodesDecode : Prop :=
  decode 0b0000#4 = .uint8 ∧ decode 0b0001#4 = .uint16 ∧ decode 0b0010#4 = .uint32 ∧ decode 0b0011#4 = .uint16be ∧
  decode 0b0100#4 = .uint32be ∧ decode 0b0101#4 = .uint16fp1 ∧ decode 0b0110#4 = .unixtime ∧
  decode 0b0111#4 = .temperature ∧ decode 0b1000#4 = .humidity ∧ decode 0b1001#4 = .latlng ∧
  decode 0b1010#4 = .rawfloat ∧ decode 0b1011#4 = .bitmap ∧ decode 0b1100#4 = .rtcsrc ∧
  decode 0b1101#4 = .reservedD ∧ decode 0b1110#4 = .reservedE ∧ decode 0b1111#4 = .reservedF ∧
  decodeTableWord 8 0x7 = some .temperature ∧ decodeTableWord 8 0xA = some .rawfloat ∧
  decodeTableWord 16 0x9 = some .latlng ∧
  [0x0#4, 0x1, 0x2, 0x3, 0x4, 0x5, 0x6, 0x7, 0x8, 0x9, 0xA, 0xB, 0xC, 0xD, 0xE, 0xF].map (fun op => width (decode op)) =
    [some 1, some 2, some 4, some 2, some 4, some 2, some 4, some 2, some 2, some 8, some 4, some 1, some 1, none, none, none] ∧
  [0x0#4, 0x1, 0x2, 0x3, 0x4, 0x5, 0x6, 0x7, 0x8, 0x9, 0xA, 0xB, 0xC, 0xD, 0xE, 0xF].map (fun op => decimalPlaces (decode op)) =
    [some 0, some 0, some 0, some 0, some 0, some 1, some 0, some 1, some 2, some 6, some 1, none, some 0, none, none, none]

/-- R54: every value of OPSEL is one of the thirteen operations or reserved, and no two operations share a code. -/
def Obligations.SelectCodesRoundTrip : Prop :=
  (∀ i : Instr, decode (encode i) = i) ∧
  ∀ op : BitVec 4, encode (decode op) = op ∧ ((decode op).wf = true ↔ op.toNat ≤ 12) ∧
    (12 < op.toNat → decode op = .reservedD ∨ decode op = .reservedE ∨ decode op = .reservedF)

/-- R51: reading the image of a request gives the request back, when the request drives no lane outside its slice, and
leaves what follows the image.
The canonical form of the lanes is the model's choice (log entry 7). -/
def Obligations.RequestImageRoundTrip : Prop :=
  ∀ (r : Request) (rest : List Byte), r.wf = true → (∀ k, r.onLanes ≤ k → r.byte k = 0) →
    decodeImage (encodeImage r ++ rest) = .ok (r, rest)

/-- R51: whatever the lanes outside the slice carry, the image keeps OPSEL, LEN and every byte of the slice. -/
def Obligations.RequestImageKeepsTheSlice : Prop :=
  ∀ (r : Request) (rest : List Byte), ∃ q : Request, decodeImage (encodeImage r ++ rest) = .ok (q, rest) ∧
    q.opsel = r.opsel ∧ q.len = r.len ∧ ∀ k, k < r.onLanes → q.byte k = r.byte k

/-- The model's own reading of R51 (log entry 19): a list of bytes that is not a request image is refused by name. -/
def Obligations.MalformedImagesAreRefused : Prop :=
  decodeImage [] = .error .empty ∧
  ∀ (h : Byte) (bs : List Byte), bs.length < min (h.toNat % 16) 8 →
    decodeImage (h :: bs) = .error (.short (min (h.toNat % 16) 8) bs.length)

/-- A step is the decoded operation run on the request that stands on the ports: the host's next one, or the one it
holds when it has none (log entry 3). -/
def Obligations.StepRunsTheDecodedOperation : Prop :=
  (∀ (s : State) (i : Instr), decode s.present.request.opsel = i → step s = exec i s.present) ∧
  (∀ s : State, s.pending = [] → s.present = s) ∧
  ∀ (s : State) (q : Request) (qs : List Request), s.pending = q :: qs →
    s.present = { s with request := q, pending := qs }

/-- After `withFetchWord` the next step runs the table row's operation with LEN = W(OPSEL) (log entries 4 and 9). -/
def Obligations.FetchWordRunsTheTableRow : Prop :=
  ∀ (s : State) (nbits w : Nat) (i : Instr), decodeTableWord nbits w = some i →
    step (s.withFetchWord nbits w) =
      exec i { s with request :=
        { opsel := encode i, len := BitVec.ofNat 4 ((width i).getD 0), lanes := s.request.lanes } }

/-! ### The integer unpacker -/

/-- R70. -/
def Obligations.Uint8Result : Prop :=
  decode 0x0#4 = .uint8 ∧ width .uint8 = some 1 ∧ decimalPlaces .uint8 = some 0 ∧
  (∀ r : Request, r.opsel = 0x0 → r.len = 1 → encodeImage r = [0x01, r.byte 0]) ∧
  ∀ s : State,
    (s.request.len.toNat ≠ 1 → ∃ t, exec .uint8 s = .next t ∧ t.st = 1 ∧
      t = { s with answer := .error (.invalidFieldLength s.request.len) }) ∧
    (s.request.len.toNat = 1 → ∃ t r, exec .uint8 s = .next t ∧ t = { s with answer := .ok r } ∧ t.st = 0 ∧
      r = { Response.zero with r0 := { neg := false, mag := r.r0.mag } } ∧
      r.r0.mag.toNat = (s.request.byte 0).toNat)

/-- R71. -/
def Obligations.Uint16Result : Prop :=
  decode 0x1#4 = .uint16 ∧ width .uint16 = some 2 ∧ decimalPlaces .uint16 = some 0 ∧
  (∀ r : Request, r.opsel = 0x1 → r.len = 2 → encodeImage r = [0x12, r.byte 0, r.byte 1]) ∧
  ∀ s : State,
    (s.request.len.toNat ≠ 2 → ∃ t, exec .uint16 s = .next t ∧ t.st = 1 ∧
      t = { s with answer := .error (.invalidFieldLength s.request.len) }) ∧
    (s.request.len.toNat = 2 → ∃ t r, exec .uint16 s = .next t ∧ t = { s with answer := .ok r } ∧ t.st = 0 ∧
      r = { Response.zero with r0 := { neg := false, mag := r.r0.mag } } ∧
      r.r0.mag.toNat = operand16 (s.request.byte 0) (s.request.byte 1))

/-- R72. -/
def Obligations.Uint32Result : Prop :=
  decode 0x2#4 = .uint32 ∧ width .uint32 = some 4 ∧ decimalPlaces .uint32 = some 0 ∧
  (∀ r : Request, r.opsel = 0x2 → r.len = 4 →
    encodeImage r = [0x24, r.byte 0, r.byte 1, r.byte 2, r.byte 3]) ∧
  ∀ s : State,
    (s.request.len.toNat ≠ 4 → ∃ t, exec .uint32 s = .next t ∧ t.st = 1 ∧
      t = { s with answer := .error (.invalidFieldLength s.request.len) }) ∧
    (s.request.len.toNat = 4 → ∃ t r, exec .uint32 s = .next t ∧ t = { s with answer := .ok r } ∧ t.st = 0 ∧
      r = { Response.zero with r0 := { neg := false, mag := r.r0.mag } } ∧
      r.r0.mag.toNat =
        operand32 (s.request.byte 0) (s.request.byte 1) (s.request.byte 2) (s.request.byte 3))

/-- R73: byte 0 is the high byte. -/
def Obligations.Uint16beResult : Prop :=
  decode 0x3#4 = .uint16be ∧ width .uint16be = some 2 ∧ decimalPlaces .uint16be = some 0 ∧
  (∀ r : Request, r.opsel = 0x3 → r.len = 2 → encodeImage r = [0x32, r.byte 0, r.byte 1]) ∧
  ∀ s : State,
    (s.request.len.toNat ≠ 2 → ∃ t, exec .uint16be s = .next t ∧ t.st = 1 ∧
      t = { s with answer := .error (.invalidFieldLength s.request.len) }) ∧
    (s.request.len.toNat = 2 → ∃ t r, exec .uint16be s = .next t ∧ t = { s with answer := .ok r } ∧ t.st = 0 ∧
      r = { Response.zero with r0 := { neg := false, mag := r.r0.mag } } ∧
      r.r0.mag.toNat = 256 * (s.request.byte 0).toNat + (s.request.byte 1).toNat)

/-- R74: byte 0 is the high byte. -/
def Obligations.Uint32beResult : Prop :=
  decode 0x4#4 = .uint32be ∧ width .uint32be = some 4 ∧ decimalPlaces .uint32be = some 0 ∧
  (∀ r : Request, r.opsel = 0x4 → r.len = 4 →
    encodeImage r = [0x44, r.byte 0, r.byte 1, r.byte 2, r.byte 3]) ∧
  ∀ s : State,
    (s.request.len.toNat ≠ 4 → ∃ t, exec .uint32be s = .next t ∧ t.st = 1 ∧
      t = { s with answer := .error (.invalidFieldLength s.request.len) }) ∧
    (s.request.len.toNat = 4 → ∃ t r, exec .uint32be s = .next t ∧ t = { s with answer := .ok r } ∧ t.st = 0 ∧
      r = { Response.zero with r0 := { neg := false, mag := r.r0.mag } } ∧
      r.r0.mag.toNat =
        2 ^ 24 * (s.request.byte 0).toNat + 2 ^ 16 * (s.request.byte 1).toNat +
          2 ^ 8 * (s.request.byte 2).toNat + (s.request.byte 3).toNat)

/-- R75: the raw integer, and the same function as UINT32 of the same slice. -/
def Obligations.UnixtimeResult : Prop :=
  decode 0x6#4 = .unixtime ∧ width .unixtime = some 4 ∧ decimalPlaces .unixtime = some 0 ∧
  (∀ r : Request, r.opsel = 0x6 → r.len = 4 →
    encodeImage r = [0x64, r.byte 0, r.byte 1, r.byte 2, r.byte 3]) ∧
  ∀ s : State,
    (s.request.len.toNat ≠ 4 → ∃ t, exec .unixtime s = .next t ∧ t.st = 1 ∧
      t = { s with answer := .error (.invalidFieldLength s.request.len) }) ∧
    (s.request.len.toNat = 4 → ∃ t r, exec .unixtime s = .next t ∧ t = { s with answer := .ok r } ∧ t.st = 0 ∧
      r = { Response.zero with r0 := { neg := false, mag := r.r0.mag } } ∧
      r.r0.mag.toNat =
        operand32 (s.request.byte 0) (s.request.byte 1) (s.request.byte 2) (s.request.byte 3)) ∧
    exec .unixtime s = exec .uint32 s

/-- R36: the little-endian value is the sum of its weighted bytes, below 2^(8n). -/
def Obligations.LittleEndianValueIsTheWeightedSum : Prop :=
  ∀ bs : List Byte,
    ule bs = ∑ k ∈ Finset.range bs.length, (bs.getD k 0).toNat * 2 ^ (8 * k) ∧ ule bs < 2 ^ (8 * bs.length)

/-- R37: the big-endian value is the sum of its weighted bytes, and the little-endian value of the reversed bytes
(which the spec marks as derived). -/
def Obligations.BigEndianValueIsTheWeightedSum : Prop :=
  ∀ bs : List Byte,
    ube bs = ∑ k ∈ Finset.range bs.length, (bs.getD k 0).toNat * 2 ^ (8 * (bs.length - 1 - k)) ∧
    ube bs = ule bs.reverse

/-- R77, whose bijection and byte-order laws the spec marks as derived: every value of the range of an integer operation is reached by exactly one slice, no result leaves the range, and
the byte orders are each other's reverse. -/
def Obligations.IntegerOperationsAreBijections : Prop :=
  (∀ (i : Instr) (w : Nat), i ∈ [Instr.uint8, .uint16, .uint32, .uint16be, .uint32be, .unixtime] →
    width i = some w →
    (∀ v : Nat, v < 2 ^ (8 * w) → ∃! bs : List Byte, bs.length = w ∧
      ∀ s : State, ∃ r, exec i { s with request := Request.ofSlice (encode i) bs } =
          .next { s with request := Request.ofSlice (encode i) bs, answer := .ok r } ∧
        r.r0.neg = false ∧ r.r0.mag.toNat = v) ∧
    (∀ (s : State), s.request.len.toNat = w → ∃ r, exec i s = .next { s with answer := .ok r } ∧
      r.r0.neg = false ∧ r.r0.mag.toNat < 2 ^ (8 * w))) ∧
  (∀ (s : State) (b0 b1 : Byte), ∃ r,
    exec .uint16be { s with request := Request.ofSlice 0x3 [b0, b1] } =
      .next { s with request := Request.ofSlice 0x3 [b0, b1], answer := .ok r } ∧
    exec .uint16 { s with request := Request.ofSlice 0x1 [b1, b0] } =
      .next { s with request := Request.ofSlice 0x1 [b1, b0], answer := .ok r }) ∧
  (∀ (s : State) (b0 b1 b2 b3 : Byte), ∃ r,
    exec .uint32be { s with request := Request.ofSlice 0x4 [b0, b1, b2, b3] } =
      .next { s with request := Request.ofSlice 0x4 [b0, b1, b2, b3], answer := .ok r } ∧
    exec .uint32 { s with request := Request.ofSlice 0x2 [b3, b2, b1, b0] } =
      .next { s with request := Request.ofSlice 0x2 [b3, b2, b1, b0], answer := .ok r })

/-! ### The fixed-point scaler -/

/-- R91. -/
def Obligations.Uint16fp1Result : Prop :=
  decode 0x5#4 = .uint16fp1 ∧ width .uint16fp1 = some 2 ∧ decimalPlaces .uint16fp1 = some 1 ∧
  (∀ r : Request, r.opsel = 0x5 → r.len = 2 → encodeImage r = [0x52, r.byte 0, r.byte 1]) ∧
  ∀ s : State,
    (s.request.len.toNat ≠ 2 → ∃ t, exec .uint16fp1 s = .next t ∧ t.st = 1 ∧
      t = { s with answer := .error (.invalidFieldLength s.request.len) }) ∧
    (s.request.len.toNat = 2 → ∃ t r, exec .uint16fp1 s = .next t ∧ t = { s with answer := .ok r } ∧ t.st = 0 ∧
      r = { Response.zero with r0 := { neg := false, mag := r.r0.mag } } ∧
      r.r0.mag.toNat = operand16 (s.request.byte 0) (s.request.byte 1) ∧
      r.r0.value 1 = (operand16 (s.request.byte 0) (s.request.byte 1) : ℚ) / 10 ∧
      resultText .uint16fp1 r = some (text1 false (operand16 (s.request.byte 0) (s.request.byte 1))))

/-- R92, with the byte order of R93: the two's-complement magnitude in hundredths, rounded to tenths. -/
def Obligations.TemperatureResult : Prop :=
  decode 0x7#4 = .temperature ∧ width .temperature = some 2 ∧ decimalPlaces .temperature = some 1 ∧
  (∀ r : Request, r.opsel = 0x7 → r.len = 2 → encodeImage r = [0x72, r.byte 0, r.byte 1]) ∧
  ∀ (s : State) (x : Nat), x = 256 * (s.request.byte 0).toNat + (s.request.byte 1).toNat →
    (s.request.len.toNat ≠ 2 → ∃ t, exec .temperature s = .next t ∧ t.st = 1 ∧
      t = { s with answer := .error (.invalidFieldLength s.request.len) }) ∧
    (s.request.len.toNat = 2 → ∃ t r, exec .temperature s = .next t ∧ t = { s with answer := .ok r } ∧ t.st = 0 ∧
      r = { Response.zero with r0 := r.r0 } ∧
      r.r0.neg = (s.request.byte 0).getLsbD 7 ∧
      r.r0.mag.toNat = ((if 2 ^ 15 ≤ x then 2 ^ 16 - x else x) + 5) / 10 ∧
      r.r0.mag.toNat ≤ 3277 ∧
      resultText .temperature r = some (text1 r.r0.neg r.r0.mag.toNat))

/-- R94, whose reading by `sext` the spec marks as derived: the magnitude is inversion plus one, it equals the distance of the signed value from zero, and the minimum
pattern has magnitude 32768. -/
def Obligations.TwosComplementMagnitudeOfTemperature : Prop :=
  (∀ x : Nat, x < 2 ^ 16 →
    (bit x 15 = false → magnitude16 x = x ∧ x ≤ 32767) ∧
    (bit x 15 = true → magnitude16 x = ((2 ^ 16 - 1 - x) + 1) % 2 ^ 16 ∧ magnitude16 x = 65536 - x ∧
      2 ^ 16 - 1 - x ≤ 0x7FFF ∧ 1 ≤ magnitude16 x ∧ magnitude16 x ≤ 32768) ∧
    bit x 15 = decide (sext 16 x < 0) ∧ (magnitude16 x : Int) = |sext 16 x|) ∧
  magnitude16 0x8000 = 32768

/-- R95: the tenths are the nearest to the hundredths, a tie going away from zero; the error is at most 0.05; the sign bit is
kept even when the magnitude rounds to zero. -/
def Obligations.TemperatureRoundsToNearestTenth : Prop :=
  (∀ s : State, s.request.len.toNat = 2 → ∃ r, exec .temperature s = .next { s with answer := .ok r } ∧
    r.r0.neg = decide (sext 16 (operand16 (s.request.byte 1) (s.request.byte 0)) < 0) ∧
    |r.r0.value 1 - (sext 16 (operand16 (s.request.byte 1) (s.request.byte 0)) : ℚ) / 100| ≤ 1 / 20 ∧
    ((sext 16 (operand16 (s.request.byte 1) (s.request.byte 0))).natAbs % 10 = 5 →
      10 * r.r0.mag.toNat = (sext 16 (operand16 (s.request.byte 1) (s.request.byte 0))).natAbs + 5)) ∧
  ∀ (s : State) (x : BitVec 16), 0xFFFC ≤ x.toNat → ∃ r,
    exec .temperature { s with request := Request.ofSlice 0x7 [x.extractLsb' 8 8, x.extractLsb' 0 8] } =
      .next { s with request := Request.ofSlice 0x7 [x.extractLsb' 8 8, x.extractLsb' 0 8], answer := .ok r } ∧
    r.r0 = { neg := true, mag := 0 } ∧ resultText .temperature r = some ['-', '0', '.', '0']

/-- R96. -/
def Obligations.HumidityResult : Prop :=
  decode 0x8#4 = .humidity ∧ width .humidity = some 2 ∧ decimalPlaces .humidity = some 2 ∧
  (∀ r : Request, r.opsel = 0x8 → r.len = 2 → encodeImage r = [0x82, r.byte 0, r.byte 1]) ∧
  ∀ s : State,
    (s.request.len.toNat ≠ 2 → ∃ t, exec .humidity s = .next t ∧ t.st = 1 ∧
      t = { s with answer := .error (.invalidFieldLength s.request.len) }) ∧
    (s.request.len.toNat = 2 → ∃ t r, exec .humidity s = .next t ∧ t = { s with answer := .ok r } ∧ t.st = 0 ∧
      r = { Response.zero with r0 := { neg := false, mag := r.r0.mag } } ∧
      r.r0.mag.toNat = operand16 (s.request.byte 0) (s.request.byte 1) ∧
      r.r0.value 2 = (operand16 (s.request.byte 0) (s.request.byte 1) : ℚ) / 100 ∧
      resultText .humidity r = none)

/-! ### The coordinate pair decoder -/

/-- R110: both modes of `coord`, latitude on R0 and longitude on R1. -/
def Obligations.LatlngResult : Prop :=
  decode 0x9#4 = .latlng ∧ width .latlng = some 8 ∧ decimalPlaces .latlng = some 6 ∧
  (∀ r : Request, r.opsel = 0x9 → r.len = 8 →
    encodeImage r = [0x98, r.byte 0, r.byte 1, r.byte 2, r.byte 3, r.byte 4, r.byte 5, r.byte 6, r.byte 7]) ∧
  ∀ (s : State) (lat lng : Nat),
    lat = operand32 (s.request.byte 0) (s.request.byte 1) (s.request.byte 2) (s.request.byte 3) →
    lng = operand32 (s.request.byte 4) (s.request.byte 5) (s.request.byte 6) (s.request.byte 7) →
    (s.request.len.toNat ≠ 8 → ∃ t, exec .latlng s = .next t ∧ t.st = 1 ∧
      t = { s with answer := .error (.invalidFieldLength s.request.len) }) ∧
    (s.request.len.toNat = 8 → ∃ t r, exec .latlng s = .next t ∧ t = { s with answer := .ok r } ∧ t.st = 0 ∧
      r = { Response.zero with r0 := r.r0, r1 := r.r1 } ∧
      (s.params.latlngSigned = true →
        r.r0.neg = decide (2 ^ 31 ≤ lat) ∧ r.r0.mag.toNat = (if 2 ^ 31 ≤ lat then 2 ^ 32 - lat else lat) ∧
        r.r1.neg = decide (2 ^ 31 ≤ lng) ∧ r.r1.mag.toNat = (if 2 ^ 31 ≤ lng then 2 ^ 32 - lng else lng)) ∧
      (s.params.latlngSigned = false →
        r.r0.neg = false ∧ r.r0.mag.toNat = lat ∧ r.r1.neg = false ∧ r.r1.mag.toNat = lng) ∧
      resultText .latlng r = none)

/-- R110's reading by `sext_32`, which the spec marks as derived: in signed mode the two results denote exactly the two's-complement integers over 1,000,000, and a negative
result is never zero. -/
def Obligations.SignedCoordinatesAreExact : Prop :=
  ∀ s : State, s.params.latlngSigned = true → s.request.len.toNat = 8 →
    ∃ r, exec .latlng s = .next { s with answer := .ok r } ∧
      r.r0.value 6 =
        (sext 32 (operand32 (s.request.byte 0) (s.request.byte 1) (s.request.byte 2) (s.request.byte 3)) : ℚ) / 1000000 ∧
      r.r1.value 6 =
        (sext 32 (operand32 (s.request.byte 4) (s.request.byte 5) (s.request.byte 6) (s.request.byte 7)) : ℚ) / 1000000 ∧
      (r.r0.neg = true → r.r0.mag ≠ 0) ∧ (r.r1.neg = true → r.r1.mag ≠ 0) ∧
      r.r0.mag.toNat ≤ 2 ^ 31 ∧ r.r1.mag.toNat ≤ 2 ^ 31

/-- R111: with LATLNG_SIGNED false LATLNG is two UINT32 reads, and the two readings agree when bytes 3 and 7 are below
0x80. -/
def Obligations.CoordinateReadings : Prop :=
  (∀ s : State, s.params.latlngSigned = false → s.request.len.toNat = 8 →
    ∃ r ra rb, exec .latlng s = .next { s with answer := .ok r } ∧
      (∀ u : State, u.request = Request.ofSlice 0x2 [s.request.byte 0, s.request.byte 1, s.request.byte 2, s.request.byte 3] →
        exec .uint32 u = .next { u with answer := .ok ra }) ∧
      (∀ u : State, u.request = Request.ofSlice 0x2 [s.request.byte 4, s.request.byte 5, s.request.byte 6, s.request.byte 7] →
        exec .uint32 u = .next { u with answer := .ok rb }) ∧
      r.r0 = ra.r0 ∧ r.r1.neg = rb.r0.neg ∧ r.r1.mag.toNat = rb.r0.mag.toNat) ∧
  ∀ (s t : State), s.request = t.request → s.request.len.toNat = 8 →
    (s.request.byte 3).toNat < 0x80 → (s.request.byte 7).toNat < 0x80 →
    ∃ r, exec .latlng s = .next { s with answer := .ok r } ∧ exec .latlng t = .next { t with answer := .ok r }

/-- R112: R0 depends on the first four bytes only and R1 on the last four only, by the same function, and no range is
checked. -/
def Obligations.CoordinateLanesAreIndependent : Prop :=
  ∀ (s t : State), s.params = t.params → s.request.len.toNat = 8 → t.request.len.toNat = 8 →
    ∃ r q, exec .latlng s = .next { s with answer := .ok r } ∧ exec .latlng t = .next { t with answer := .ok q } ∧
      ((∀ k, k < 4 → s.request.byte k = t.request.byte k) → r.r0 = q.r0) ∧
      ((∀ k, k < 4 → s.request.byte (4 + k) = t.request.byte (4 + k)) → r.r1 = q.r1) ∧
      ((∀ k, k < 4 → s.request.byte k = t.request.byte (4 + k)) →
        r.r0.neg = q.r1.neg ∧ r.r0.mag.toNat = q.r1.mag.toNat)

/-- Only LATLNG reads the static parameter (R6, R111). -/
def Obligations.ParameterReachesOnlyLatlng : Prop :=
  ∀ (i : Instr) (s t : State), i ≠ .latlng → s.request = t.request →
    ∃ a, exec i s = .next { s with answer := a } ∧ exec i t = .next { t with answer := a }

/-- R6, R18, R171: LATLNG_SIGNED is true by default, and no transaction changes it. -/
def Obligations.ParameterIsFixed : Prop :=
  Params.default.latlngSigned = true ∧ State.reset.params = Params.default ∧
  (∀ (i : Instr) (s t : State), exec i s = .next t → t.params = s.params) ∧
  ∀ s t : State, step s = .next t → t.params = s.params

/-! ### The float reconstructor -/

/-- R120, with the fields of R121 and R122, the rounding of R124 and the warning of R125. -/
def Obligations.RawfloatResult : Prop :=
  decode 0xA#4 = .rawfloat ∧ width .rawfloat = some 4 ∧ decimalPlaces .rawfloat = some 1 ∧
  (∀ r : Request, r.opsel = 0xA → r.len = 4 →
    encodeImage r = [0xA4, r.byte 0, r.byte 1, r.byte 2, r.byte 3]) ∧
  ∀ (s : State) (p fe fsig : Nat),
    p = operand32 (s.request.byte 0) (s.request.byte 1) (s.request.byte 2) (s.request.byte 3) →
    fe = p / 2 ^ 23 % 2 ^ 8 →
    fsig = (if fe = 0 then p % 2 ^ 23 else p % 2 ^ 23 + 2 ^ 23) →
    (s.request.len.toNat ≠ 4 → ∃ t, exec .rawfloat s = .next t ∧ t.st = 1 ∧
      t = { s with answer := .error (.invalidFieldLength s.request.len) }) ∧
    (s.request.len.toNat = 4 → ∃ t r, exec .rawfloat s = .next t ∧ t = { s with answer := .ok r } ∧ t.st = 0 ∧
      r.r1 = { neg := false, mag := 0 } ∧ (∀ k : Fin 8, r.flags[k] = false) ∧
      r.fs = (s.request.byte 3).getLsbD 7 ∧ r.fe.toNat = fe ∧ r.fsig.toNat = fsig ∧
      r.r0.neg = r.fs ∧
      r.r0.mag.toNat =
        (if 150 ≤ fe then 10 * fsig * 2 ^ (fe - 150) else (10 * fsig + 2 ^ (149 - fe)) / 2 ^ (150 - fe)) ∧
      r.warn = decide (fe = 255) ∧
      resultText .rawfloat r = some (text1 r.r0.neg r.r0.mag.toNat))

/-- R121, R122: the three fields on the ports lose nothing: two slices with the same fields are the same slice. -/
def Obligations.FloatFieldsDetermineTheSlice : Prop :=
  ∀ (s t : State), s.request.len.toNat = 4 → t.request.len.toNat = 4 →
    ∃ r q, exec .rawfloat s = .next { s with answer := .ok r } ∧ exec .rawfloat t = .next { t with answer := .ok q } ∧
      (r.fs = q.fs → r.fe = q.fe → r.fsig = q.fsig → ∀ k, k < 4 → s.request.byte k = t.request.byte k)

/-- R123, R124: R0 is ten times the value `(-1)^FS * FSIG * 2^(FE-150)` rounded to the nearest integer, a tie away from
zero, at every exponent field, 0 and 255 included; the sign is kept. -/
def Obligations.FloatRoundsToNearestTenth : Prop :=
  ∀ s : State, s.request.len.toNat = 4 → ∃ r, exec .rawfloat s = .next { s with answer := .ok r } ∧
    r.r0.neg = r.fs ∧
    (r.r0.mag.toNat : ℚ) - 1 / 2 ≤ 10 * ((r.fsig.toNat : ℚ) * 2 ^ ((r.fe.toNat : ℤ) - 150)) ∧
    10 * ((r.fsig.toNat : ℚ) * 2 ^ ((r.fe.toNat : ℤ) - 150)) < (r.r0.mag.toNat : ℚ) + 1 / 2

/-- R126, which the spec marks as derived: magnitude 0 up to exponent field 121, 0 or 1 at 122, exact from 150 on, and the largest magnitudes. -/
def Obligations.FloatRanges : Prop :=
  (∀ s : State, s.request.len.toNat = 4 → ∃ r, exec .rawfloat s = .next { s with answer := .ok r } ∧
    (r.fe.toNat ≤ 121 → r.r0.mag = 0) ∧
    (r.fe.toNat = 122 → r.r0.mag = 0 ∨ r.r0.mag = 1) ∧
    (150 ≤ r.fe.toNat → (r.r0.mag.toNat : ℚ) = 10 * ((r.fsig.toNat : ℚ) * 2 ^ ((r.fe.toNat : ℤ) - 150))) ∧
    r.r0.mag.toNat ≤ 6805646932770577196234083669690338508800 ∧
    (r.fe.toNat ≤ 254 → r.r0.mag.toNat ≤ 3402823466385288598117041834845169254400)) ∧
  (∀ s : State, ∃ a b c d,
    exec .rawfloat { s with request := Request.ofSlice 0xA [0xFF, 0xFF, 0xFF, 0x7F] } =
      .next { s with request := Request.ofSlice 0xA [0xFF, 0xFF, 0xFF, 0x7F], answer := .ok a } ∧
    exec .rawfloat { s with request := Request.ofSlice 0xA [0xFF, 0xFF, 0x7F, 0x7F] } =
      .next { s with request := Request.ofSlice 0xA [0xFF, 0xFF, 0x7F, 0x7F], answer := .ok b } ∧
    exec .rawfloat { s with request := Request.ofSlice 0xA [0xCC, 0xCC, 0x4C, 0x3D] } =
      .next { s with request := Request.ofSlice 0xA [0xCC, 0xCC, 0x4C, 0x3D], answer := .ok c } ∧
    exec .rawfloat { s with request := Request.ofSlice 0xA [0xCD, 0xCC, 0x4C, 0x3D] } =
      .next { s with request := Request.ofSlice 0xA [0xCD, 0xCC, 0x4C, 0x3D], answer := .ok d } ∧
    a.r0.mag.toNat = 6805646932770577196234083669690338508800 ∧
    b.r0.mag.toNat = 3402823466385288598117041834845169254400 ∧ c.r0.mag = 0 ∧ d.r0.mag = 1) ∧
  2 ^ 132 ≤ 6805646932770577196234083669690338508800 ∧ 6805646932770577196234083669690338508800 < 2 ^ 133 ∧
  2 ^ 131 ≤ 3402823466385288598117041834845169254400 ∧ 3402823466385288598117041834845169254400 < 2 ^ 132

/-! ### The flag unpacker and the enumeration check -/

/-- R140, R141: `F[k]` is bit 7-k of the byte. -/
def Obligations.BitmapResult : Prop :=
  decode 0xB#4 = .bitmap ∧ width .bitmap = some 1 ∧ decimalPlaces .bitmap = none ∧
  (∀ r : Request, r.opsel = 0xB → r.len = 1 → encodeImage r = [0xB1, r.byte 0]) ∧
  ∀ s : State,
    (s.request.len.toNat ≠ 1 → ∃ t, exec .bitmap s = .next t ∧ t.st = 1 ∧
      t = { s with answer := .error (.invalidFieldLength s.request.len) }) ∧
    (s.request.len.toNat = 1 → ∃ t r, exec .bitmap s = .next t ∧ t = { s with answer := .ok r } ∧ t.st = 0 ∧
      r = { Response.zero with flags := r.flags } ∧
      ∀ k : Fin 8, r.flags[k] = (s.request.byte 0).getLsbD (7 - k.val))

/-- R142, R143: the code of a mapped byte, and UnknownEnumValue with the byte for every other; the length is checked
first. -/
def Obligations.RtcsrcResult : Prop :=
  decode 0xC#4 = .rtcsrc ∧ width .rtcsrc = some 1 ∧ decimalPlaces .rtcsrc = some 0 ∧
  (rtcSource 0 = some .gps ∧ rtcSource 1 = some .rtc ∧ rtcSource 2 = some .lora ∧ rtcSource 3 = some .unsynched ∧
    rtcSource 4 = some .setUnknown ∧ ∀ c, 4 < c → rtcSource c = none) ∧
  (∀ r : Request, r.opsel = 0xC → r.len = 1 → encodeImage r = [0xC1, r.byte 0]) ∧
  ∀ s : State,
    (s.request.len.toNat ≠ 1 → ∃ t, exec .rtcsrc s = .next t ∧ t.st = 1 ∧
      t = { s with answer := .error (.invalidFieldLength s.request.len) }) ∧
    (s.request.len.toNat = 1 → (s.request.byte 0).toNat ≤ 4 →
      ∃ t r, exec .rtcsrc s = .next t ∧ t = { s with answer := .ok r } ∧ t.st = 0 ∧
        r = { Response.zero with r0 := { neg := false, mag := r.r0.mag } } ∧
        r.r0.mag.toNat = (s.request.byte 0).toNat) ∧
    (s.request.len.toNat = 1 → 4 < (s.request.byte 0).toNat →
      ∃ t, exec .rtcsrc s = .next t ∧ t = { s with answer := .error (.unknownEnumValue (s.request.byte 0)) } ∧ t.st = 2)

/-! ### Faults -/

/-- R151, R55: a reserved code faults with IllegalOp whatever LEN and the bytes are, and produces no result. -/
def Obligations.ReservedCodesFaultIllegalOp : Prop :=
  decode 0xD#4 = .reservedD ∧ decode 0xE#4 = .reservedE ∧ decode 0xF#4 = .reservedF ∧ ∀ s : State,
    (∃ t, exec .reservedD s = .next t ∧ t = { s with answer := .error (.illegalOp 0xD) } ∧ t.st = 3) ∧
    (∃ t, exec .reservedE s = .next t ∧ t = { s with answer := .error (.illegalOp 0xE) } ∧ t.st = 3) ∧
    (∃ t, exec .reservedF s = .next t ∧ t = { s with answer := .error (.illegalOp 0xF) } ∧ t.st = 3)

/-- R152: every operation faults with InvalidFieldLength on a slice of any other length, too short or too long, and so on an
empty one. -/
def Obligations.WrongLengthFaultsEveryOperation : Prop :=
  (∀ (i : Instr) (w : Nat) (s : State), width i = some w → s.request.len.toNat ≠ w →
    ∃ t, exec i s = .next t ∧ t = { s with answer := .error (.invalidFieldLength s.request.len) } ∧ t.st = 1) ∧
  ∀ (i : Instr) (s : State), i.wf = true → s.request.len = 0 →
    exec i s = .next { s with answer := .error (.invalidFieldLength 0) }

/-- R150: which operations raise each fault, its cause, its information value and its code on ST. -/
def Obligations.FaultKindsCausesAndCodes : Prop :=
  ∀ (i : Instr) (s t : State), exec i s = .next t →
    (∀ r, t.answer = .ok r → t.st = 0) ∧
    (∀ l, t.answer = .error (.invalidFieldLength l) →
      t.st = 1 ∧ l = s.request.len ∧ ∃ w, width i = some w ∧ s.request.len.toNat ≠ w) ∧
    (∀ b, t.answer = .error (.unknownEnumValue b) →
      t.st = 2 ∧ i = .rtcsrc ∧ b = s.request.byte 0 ∧ 4 < b.toNat) ∧
    (∀ o, t.answer = .error (.illegalOp o) →
      t.st = 3 ∧ o = encode i ∧ (i = .reservedD ∨ i = .reservedE ∨ i = .reservedF)) ∧
    ((i = .reservedD ∨ i = .reservedE ∨ i = .reservedF) → t.answer = .error (.illegalOp (encode i))) ∧
    (∀ w, width i = some w → s.request.len.toNat ≠ w → t.answer = .error (.invalidFieldLength s.request.len)) ∧
    (i = .rtcsrc → s.request.len.toNat = 1 → 4 < (s.request.byte 0).toNat →
      t.answer = .error (.unknownEnumValue (s.request.byte 0)))

/-- R154: one fault is reported, IllegalOp before InvalidFieldLength before UnknownEnumValue, and a result when none
applies. -/
def Obligations.FaultPriority : Prop :=
  ∀ (s : State) (r : Request), r = s.present.request →
    (13 ≤ r.opsel.toNat → step s = .next { s.present with answer := .error (.illegalOp r.opsel) }) ∧
    (∀ w, width (decode r.opsel) = some w → r.len.toNat ≠ w →
      step s = .next { s.present with answer := .error (.invalidFieldLength r.len) }) ∧
    (r.opsel = 0xC → r.len.toNat = 1 → 4 < (r.byte 0).toNat →
      step s = .next { s.present with answer := .error (.unknownEnumValue (r.byte 0)) }) ∧
    (∀ w, width (decode r.opsel) = some w → r.len.toNat = w → (r.opsel = 0xC → (r.byte 0).toNat ≤ 4) →
      ∃ q, step s = .next { s.present with answer := .ok q })

/-- R58: twelve operations answer every bit pattern of their bytes with a result; RTCSRC answers exactly the five mapped
codes, and RAWFLOAT answers exponent field 255 with WARN set. -/
def Obligations.OperationsAreTotalOverTheirData : Prop :=
  (∀ (i : Instr) (s : State), i.wf = true → i ≠ .rtcsrc → width i = some s.request.len.toNat →
    ∃ r, exec i s = .next { s with answer := .ok r }) ∧
  (∀ s : State, s.request.len.toNat = 4 →
    operand32 (s.request.byte 0) (s.request.byte 1) (s.request.byte 2) (s.request.byte 3) / 2 ^ 23 % 2 ^ 8 = 255 →
    ∃ r, exec .rawfloat s = .next { s with answer := .ok r } ∧ r.warn = true) ∧
  ∀ s : State, s.request.len.toNat = 1 →
    ((∃ r, exec .rtcsrc s = .next { s with answer := .ok r }) ↔ (s.request.byte 0).toNat ≤ 4) ∧
    (¬ (s.request.byte 0).toNat ≤ 4 →
      exec .rtcsrc s = .next { s with answer := .error (.unknownEnumValue (s.request.byte 0)) })

/-- The contract of WellFormed.lean is exact: a request is answered with a result exactly when it meets it. -/
def Obligations.ResultExactlyWhenTheContractIsMet : Prop :=
  ∀ (i : Instr) (s : State),
    (∃ r, exec i s = .next { s with answer := .ok r }) ↔ s.request.meets i = true

/-! ### What every transaction does and leaves alone -/

/-- R33, R155: no transaction stops the machine, no read leaves the slice, and only the answer changes; so every step is
answered and nothing but the ports and the host's list changes. -/
def Obligations.EveryTransactionIsAnswered : Prop :=
  (∀ (i : Instr) (s : State), ∃ a, exec i s = .next { s with answer := a }) ∧
  ∀ s : State, ∃ a, step s = .next { s.present with answer := a } ∧ Answered (step s)

/-- R35, R18: the frame of every operation: it writes no byte of the slice, no other port of the request, no parameter
and nothing of the host's. -/
def Obligations.FrameOfEveryOperation : Prop :=
  ∀ (i : Instr) (s t : State), exec i s = .next t →
    t.params = s.params ∧ t.request.opsel = s.request.opsel ∧ t.request.len = s.request.len ∧
    (∀ a, t.request.lanes.read a = s.request.lanes.read a) ∧ t.request = s.request ∧ t.pending = s.pending

/-- R13: with ST = 0, every port the operation does not write is 0. -/
def Obligations.UnwrittenPortsAreZero : Prop :=
  ∀ (i : Instr) (s t : State) (r : Response), exec i s = .next t → t.answer = .ok r →
    (i ≠ .rawfloat → r.warn = false ∧ r.fs = false ∧ r.fe = 0 ∧ r.fsig = 0) ∧
    (i ≠ .latlng → r.r1.neg = false ∧ r.r1.mag = 0) ∧
    (i ≠ .bitmap → ∀ k : Fin 8, r.flags[k] = false) ∧
    (i = .bitmap → r.r0.neg = false ∧ r.r0.mag = 0)

/-- R17, R125: WARN accompanies a complete result of RAWFLOAT whose exponent field is 255, and nothing else. -/
def Obligations.WarnMarksExponent255Only : Prop :=
  ∀ (i : Instr) (s t : State) (r : Response), exec i s = .next t → t.answer = .ok r →
    (r.warn = true ↔ i = .rawfloat ∧ r.fe = 255)

/-- R24, which the spec marks as derived: the response depends only on the lanes of the slice, and a request whose LEN is not the width, or whose code is
reserved, on no lane at all. -/
def Obligations.LaneIndependence : Prop :=
  ∀ (i : Instr) (s t : State), s.params = t.params → s.request.len = t.request.len →
    (width i = some s.request.len.toNat → ∀ k, k < s.request.len.toNat → s.request.byte k = t.request.byte k) →
    ∃ a, exec i s = .next { s with answer := a } ∧ exec i t = .next { t with answer := a }

/-- R10, R157: the response to a request is the same whatever was answered, held or lined up before. -/
def Obligations.ResponseIgnoresEarlierTransactions : Prop :=
  ∀ (s t : State) (q : Request), s.params = t.params →
    ∃ a, step (s.drive q) = .next { s with request := q, answer := a } ∧
      step (t.drive q) = .next { t with request := q, answer := a }

/-- R175, which the spec marks as derived: two requests may be issued in either order, and one may be issued twice, with the same responses. -/
def Obligations.OrderAndRepetitionDoNotMatter : Prop :=
  ∀ (s : State) (p q : Request), ∃ a b,
    step (s.drive p) = .next { s with request := p, answer := a } ∧
    step (State.drive { s with request := p, answer := a } q) = .next { s with request := q, answer := b } ∧
    step (s.drive q) = .next { s with request := q, answer := b } ∧
    step (State.drive { s with request := q, answer := b } p) = .next { s with request := p, answer := a } ∧
    step (State.drive { s with request := p, answer := a } p) = .next { s with request := p, answer := a }

/-- R157, R174: while the host holds its request, re-evaluating it gives the same answer and changes nothing. -/
def Obligations.HeldRequestKeepsItsAnswer : Prop :=
  ∀ s t : State, step s = .next t → t.pending = [] → step t = .next t

/-- The canonical form of the lanes is canonical: two that read alike are equal (log entry 7). -/
def Obligations.LanesThatReadAlikeAreEqual : Prop :=
  ∀ m n : Memory, m.wf = true → n.wf = true → (∀ a, a < 8 → m.read a = n.read a) → m = n

/-- R12: a slice of more than fifteen bytes is presented with LEN = 15, and every slice longer than eight bytes faults for every
operation. -/
def Obligations.LongSlicesFault : Prop :=
  ∀ (i : Instr) (s : State) (bs : List Byte), i.wf = true → 9 ≤ bs.length →
    exec i { s with request := Request.ofSlice (encode i) bs } =
      .next { s with
        request := Request.ofSlice (encode i) bs
        answer := .error (.invalidFieldLength (BitVec.ofNat 4 (min bs.length 15))) }

/-- R10, R12, R24: the machine on its ports computes the pure function `fdu` of the parameters and the slice, for every
OPSEL, every slice of any length and every contents of the lanes outside it. -/
def Obligations.MachineRefinesPureFunction : Prop :=
  ∀ (s : State) (bs : List Byte), s.request.len.toNat = min bs.length 15 →
    (∀ k, k < min bs.length 8 → s.request.byte k = bs.getD k 0) →
    exec (decode s.request.opsel) s = .next { s with answer := fdu s.params s.request.opsel bs }

/-- The invariant of every step: the answer on the output ports is that of the request on the input ports (R10), and the lanes
of every request, on the ports and in the pending list, are canonical. The canonical form of the lanes is the model's choice
(log entry 7), and so is the pending list (log entry 3). -/
def Obligations.StepKeepsInvariant : Prop :=
  ∀ s t : State, Inv s → step s = .next t → Inv t

/-- The invariant holds after reset; the request on the undriven ports is the model's choice (log entry 2), and so are the
canonical form of the lanes (log entry 7) and the pending list (log entry 3). -/
def Obligations.InvariantHoldsAtReset : Prop := Inv State.reset

/-! ### The restricted unit and the reference host -/

/-- R56: a unit of the four named blocks alone treats 0xB and 0xC as reserved and is otherwise identical. -/
def Obligations.FourBlocksUnit : Prop :=
  decode 0xB#4 = .bitmap ∧ decode 0xC#4 = .rtcsrc ∧
  (∀ s : State, execFourBlocks .bitmap s = .next { s with answer := .error (.illegalOp 0xB) } ∧
    execFourBlocks .rtcsrc s = .next { s with answer := .error (.illegalOp 0xC) }) ∧
  ∀ (i : Instr) (s : State), i ≠ .bitmap → i ≠ .rtcsrc → execFourBlocks i s = exec i s

/-- R161: the host fails with BufferTooShort exactly when the payload is shorter than the script needs; for fields laid out
left to right without overlap the need is the sum of the widths; excess trailing bytes are ignored.
The script with an offset for each field is that of spec/95_test_vectors.md section 4 (D25). That a reserved code in a script or
layout has width 0 is the model's choice (log entry 14). -/
def Obligations.HostChecksTotalLength : Prop :=
  (∀ (s : State) (payload : List Byte) (script : Script),
    runScript s payload script = .bufferTooShort ↔ payload.length < bytesNeeded script) ∧
  (∀ is : List Instr, bytesNeeded (layoutFrom 0 is) = (is.map fun i => (width i).getD 0).sum) ∧
  ∀ (s : State) (payload extra : List Byte) (script : Script), bytesNeeded script ≤ payload.length →
    runScript s (payload ++ extra) script = runScript s payload script

/-- R160, R162, R177: a run of the host is the pure functions of its slices in order, all their results or the first
fault and nothing else; bytes after the last field do not matter.
That a reserved code in a script has width 0, so that its request carries no byte, is the model's choice (log entry 14). -/
def Obligations.HostRunRefinesPureRun : Prop :=
  ∀ (s : State) (payload : List Byte) (script : Script),
    runScript s payload script =
      if payload.length < bytesNeeded script then .bufferTooShort
      else match script.mapM fun f => fdu s.params (encode f.1) ((payload.drop f.2).take ((width f.1).getD 0)) with
        | .ok rs => .record rs
        | .error f => .fieldFault f

/-- R160: a host that cuts slices of W bytes never sees InvalidFieldLength. -/
def Obligations.HostNeverSeesWrongLength : Prop :=
  ∀ (s : State) (payload : List Byte) (script : Script) (l : BitVec 4), (∀ f ∈ script, f.1.wf = true) →
    runScript s payload script ≠ .fieldFault (.invalidFieldLength l)

/-- R8, R14: the one-decimal text determines the sign and the magnitude, and its integer part has no leading zero. -/
def Obligations.TextDeterminesTheResult : Prop :=
  (∀ (m n : Bool) (t u : Nat), text1 m t = text1 n u → m = n ∧ t = u) ∧
  ∀ t : Nat, 10 ≤ t → (text1 false t).head? ≠ some '0'
end

