-- ==== Sys2Proof/Laws/Memory.lean ====
section
/-! SUPPORT. The lanes: every operation keeps the canonical form, and a lane reads what was driven on it. -/

namespace Sys2Proof.Machine

theorem Memory.wfFrom_cons {lo a : Nat} {v : Byte} {m : Memory} :
    Memory.wfFrom lo ((a, v) :: m) = true ↔
      lo ≤ a ∧ a < 8 ∧ v ≠ 0 ∧ Memory.wfFrom (a + 1) m = true := by
  simp [Memory.wfFrom, and_assoc]

theorem Memory.wfFrom_mono {m : Memory} {lo lo' : Nat} (h : lo' ≤ lo) (hm : Memory.wfFrom lo m = true) :
    Memory.wfFrom lo' m = true := by
  cases m with
  | nil => rfl
  | cons c m =>
    obtain ⟨h1, h2⟩ := Memory.wfFrom_cons.1 hm
    exact Memory.wfFrom_cons.2 ⟨h.trans h1, h2⟩

theorem Memory.read_of_lt {m : Memory} {lo a : Nat} (hm : Memory.wfFrom lo m = true) (h : a < lo) :
    m.read a = 0 := by
  induction m generalizing lo with
  | nil => rfl
  | cons c m ih =>
    obtain ⟨h1, -, -, h4⟩ := Memory.wfFrom_cons.1 hm
    have hne : a ≠ c.1 := by omega
    simp only [Memory.read, if_neg hne]
    exact ih h4 (by omega)

theorem Memory.read_of_ge {m : Memory} {lo a : Nat} (hm : Memory.wfFrom lo m = true) (h : 8 ≤ a) :
    m.read a = 0 := by
  induction m generalizing lo with
  | nil => rfl
  | cons c m ih =>
    obtain ⟨-, h2, -, h4⟩ := Memory.wfFrom_cons.1 hm
    have hne : a ≠ c.1 := by omega
    simp only [Memory.read, if_neg hne]
    exact ih h4

theorem Memory.insert_wfFrom {m : Memory} {lo a : Nat} {v : Byte} (hm : Memory.wfFrom lo m = true) (hlo : lo ≤ a)
    (ha : a < 8) : Memory.wfFrom lo (m.insert a v) = true := by
  induction m generalizing lo with
  | nil =>
    unfold Memory.insert
    split
    · rfl
    · rename_i hv; exact Memory.wfFrom_cons.2 ⟨hlo, ha, hv, rfl⟩
  | cons c m ih =>
    obtain ⟨h1, h2, h3, h4⟩ := Memory.wfFrom_cons.1 hm
    unfold Memory.insert
    split
    · split
      · exact hm
      · rename_i hlt hv
        exact Memory.wfFrom_cons.2 ⟨hlo, ha, hv, Memory.wfFrom_cons.2 ⟨by omega, h2, h3, h4⟩⟩
    · split
      · split
        · exact Memory.wfFrom_mono (by omega) h4
        · rename_i heq hv
          subst heq
          exact Memory.wfFrom_cons.2 ⟨h1, h2, hv, h4⟩
      · exact Memory.wfFrom_cons.2 ⟨h1, h2, h3, ih h4 (by omega)⟩

/-- Driving a lane keeps the canonical form. -/
theorem Memory.drive_wf {m : Memory} {a : Nat} {v : Byte} (hm : m.wf = true) : (m.drive a v).wf = true := by
  unfold Memory.drive
  split
  · exact Memory.insert_wfFrom hm (Nat.zero_le _) ‹_›
  · exact hm

theorem Memory.read_insert {m : Memory} {lo a b : Nat} {v : Byte} (hm : Memory.wfFrom lo m = true) :
    (m.insert a v).read b = if a = b then v else m.read b := by
  induction m generalizing lo with
  | nil =>
    unfold Memory.insert
    split
    · rename_i hv; simp [Memory.read, hv]
    · simp [Memory.read, eq_comm]
  | cons c m ih =>
    obtain ⟨-, -, -, h4⟩ := Memory.wfFrom_cons.1 hm
    have hread := @Memory.read_of_lt m (c.1 + 1)
    unfold Memory.insert
    split
    · rename_i hlt
      split
      · rename_i hv
        by_cases hab : a = b
        · subst hab
          have hne : a ≠ c.1 := by omega
          simp [Memory.read, hv, hne, hread h4 (by omega : a < c.1 + 1)]
        · simp [hab]
      · by_cases hab : a = b
        · simp [Memory.read, hab]
        · simp [Memory.read, hab, Ne.symm hab]
    · split
      · rename_i heq
        subst heq
        split
        · rename_i hv
          by_cases hab : c.1 = b
          · simp [hv, ← hab, hread h4 (by omega : c.1 < c.1 + 1)]
          · simp [Memory.read, hab, Ne.symm hab]
        · by_cases hab : c.1 = b
          · simp [Memory.read, hab]
          · simp [Memory.read, hab, Ne.symm hab]
      · rename_i hne
        by_cases hab : b = c.1
        · simp [Memory.read, hab, hne]
        · simp [Memory.read, hab, ih h4]

/-- A lane reads what was driven on it, and driving it leaves every other lane alone. -/
theorem Memory.read_drive {m : Memory} {a b : Nat} {v : Byte} (hm : m.wf = true) :
    (m.drive a v).read b = if a < 8 ∧ a = b then v else m.read b := by
  unfold Memory.drive
  split
  · rename_i h; simp [Memory.read_insert hm, h]
  · rename_i h; simp [h]

theorem Memory.ofBytesFrom_wf (a : Nat) (bs : List Byte) : Memory.wfFrom a (Memory.ofBytesFrom a bs) = true := by
  induction bs generalizing a with
  | nil => rfl
  | cons b bs ih =>
    unfold Memory.ofBytesFrom
    split
    · rename_i h; exact Memory.wfFrom_cons.2 ⟨le_rfl, h.1, h.2, ih _⟩
    · exact Memory.wfFrom_mono (by omega) (ih _)

/-- A slice driven on the lanes is in canonical form. -/
theorem Memory.ofBytes_wf (bs : List Byte) : (Memory.ofBytes bs).wf = true := Memory.ofBytesFrom_wf 0 bs

theorem Memory.read_ofBytesFrom (a i : Nat) (bs : List Byte) :
    (Memory.ofBytesFrom a bs).read (a + i) = if a + i < 8 then bs.getD i 0 else 0 := by
  induction bs generalizing a i with
  | nil => simp [Memory.ofBytesFrom, Memory.read]
  | cons b bs ih =>
    have hlow : (Memory.ofBytesFrom (a + 1) bs).read a = 0 :=
      Memory.read_of_lt (Memory.ofBytesFrom_wf _ _) (by omega)
    cases i with
    | zero =>
      unfold Memory.ofBytesFrom
      split
      · rename_i h; simp [Memory.read, h.1]
      · rename_i h
        by_cases ha : a < 8
        · have hb : b = 0 := by by_contra hb; exact h ⟨ha, hb⟩
          simp [hlow, ha, hb]
        · simp [hlow, ha]
    | succ i =>
      have ih' := ih (a + 1) i
      have harith : a + 1 + i = a + (i + 1) := by omega
      rw [harith] at ih'
      unfold Memory.ofBytesFrom
      split
      · have hne : a + (i + 1) ≠ a := by omega
        simp only [Memory.read, if_neg hne, ih', List.getD_cons_succ]
      · rw [ih', List.getD_cons_succ]

/-- Lane `i` of a slice carries byte `i`; there is no lane past the last. -/
theorem Memory.read_ofBytes (i : Nat) (bs : List Byte) :
    (Memory.ofBytes bs).read i = if i < 8 then bs.getD i 0 else 0 := by
  simpa [Memory.ofBytes] using Memory.read_ofBytesFrom 0 i bs

/-- The lanes of the state after reset are in canonical form. -/
theorem State.reset_wf : State.reset.wf = true := by decide

end Sys2Proof.Machine
end

