-- ==== Sys2Proof/Laws/Operands.lean ====
section
/-! SUPPORT. The arithmetic primitives: bounds of assembled operands, bits as comparisons and remainders, and two's complement as
subtraction. -/

namespace Sys2Proof

@[simp] theorem ule_nil : ule [] = 0 := rfl
@[simp] theorem ule_cons (b : Byte) (bs : List Byte) : ule (b :: bs) = b.toNat + 2 ^ 8 * ule bs := rfl
@[simp] theorem ube_nil : ube [] = 0 := rfl
@[simp] theorem ube_cons (b : Byte) (bs : List Byte) : ube (b :: bs) = b.toNat * 2 ^ (8 * bs.length) + ube bs := rfl

/-- Appending a byte to a little-endian list adds its most significant byte. -/
theorem ule_append_byte (bs : List Byte) (b : Byte) : ule (bs ++ [b]) = ule bs + 2 ^ (8 * bs.length) * b.toNat := by
  induction bs with
  | nil => simp
  | cons c bs ih =>
    simp only [List.cons_append, ule_cons, ih, List.length_cons, Nat.mul_add, Nat.pow_add]
    ring

/-- Bit `k` of a number below 2^(k+1) is a comparison. -/
theorem bit_eq_decide {v k : Nat} (h : v < 2 ^ (k + 1)) : bit v k = decide (2 ^ k ≤ v) := by
  have hpos : 0 < 2 ^ k := Nat.two_pow_pos k
  have hlt : v / 2 ^ k < 2 := by
    rw [Nat.pow_succ] at h; exact Nat.div_lt_of_lt_mul h
  have hone : 2 ^ k ≤ v ↔ 1 ≤ v / 2 ^ k := by rw [Nat.le_div_iff_mul_le hpos]; simp
  unfold bit
  by_cases h1 : 2 ^ k ≤ v
  · have : v / 2 ^ k = 1 := by have := hone.1 h1; omega
    simp [this, h1]
  · have : v / 2 ^ k = 0 := Nat.div_eq_of_lt (Nat.lt_of_not_le h1)
    simp [this, h1]

/-- Inversion plus one at width N of a non-zero pattern is subtraction from 2^N (R94, R110). -/
theorem negN_eq_sub {n v : Nat} (h0 : 0 < v) (h : v < 2 ^ n) : negN n v = 2 ^ n - v := by
  unfold negN notN
  rw [Nat.mod_eq_of_lt] <;> omega

theorem bits_lt (v hi lo : Nat) : bits v hi lo < 2 ^ (hi - lo + 1) := Nat.mod_lt _ (Nat.two_pow_pos _)

namespace Machine

theorem floatExponent_lt (p : Nat) : floatExponent p < 256 := bits_lt p 30 23

theorem floatFraction_lt (p : Nat) : floatFraction p < 2 ^ 23 := bits_lt p 22 0

theorem floatSignificand_lt (p : Nat) : floatSignificand p < 2 ^ 24 := by
  have := floatFraction_lt p
  unfold floatSignificand
  split <;> omega

/-- The three fields of a 32-bit pattern put it together again (R121). -/
theorem float_fields_recompose {p : Nat} (h : p < 2 ^ 32) :
    p = (if floatSign p then 2 ^ 31 else 0) + floatExponent p * 2 ^ 23 + floatFraction p := by
  rw [floatSign, bit_eq_decide h]
  simp only [floatExponent, floatFraction, bits, decide_eq_true_eq]
  split <;> omega

end Machine

end Sys2Proof
end

