-- ==== Sys2Proof/Laws/State.lean ====
section
/-! SUPPORT. One lemma per field for each update of the state and of the response ports. -/

namespace Sys2Proof.Machine

variable (s : State) (f : FduFault) (r : Response) (q : Request)

@[simp] theorem State.takeFault_params : (s.takeFault f).params = s.params := rfl
@[simp] theorem State.takeFault_request : (s.takeFault f).request = s.request := rfl
@[simp] theorem State.takeFault_answer : (s.takeFault f).answer = .error f := rfl
@[simp] theorem State.takeFault_pending : (s.takeFault f).pending = s.pending := rfl
@[simp] theorem State.takeFault_st : (s.takeFault f).st = statusCode (.error f) := rfl

@[simp] theorem State.giveResult_params : (s.giveResult r).params = s.params := rfl
@[simp] theorem State.giveResult_request : (s.giveResult r).request = s.request := rfl
@[simp] theorem State.giveResult_answer : (s.giveResult r).answer = .ok r := rfl
@[simp] theorem State.giveResult_pending : (s.giveResult r).pending = s.pending := rfl
@[simp] theorem State.giveResult_st : (s.giveResult r).st = 0 := rfl

@[simp] theorem State.drive_params : (s.drive q).params = s.params := rfl
@[simp] theorem State.drive_request : (s.drive q).request = s.request := rfl
@[simp] theorem State.drive_answer : (s.drive q).answer = s.answer := rfl
@[simp] theorem State.drive_pending : (s.drive q).pending = q :: s.pending := rfl

@[simp] theorem State.present_drive : (s.drive q).present = { s with request := q } := rfl

theorem State.present_of_nil (h : s.pending = []) : s.present = s := by
  simp [State.present, h]

theorem State.present_of_cons {qs : List Request} (h : s.pending = q :: qs) :
    s.present = { s with request := q, pending := qs } := by
  simp [State.present, h]

@[simp] theorem State.present_params : s.present.params = s.params := by
  unfold State.present; split <;> rfl

@[simp] theorem State.present_answer : s.present.answer = s.answer := by
  unfold State.present; split <;> rfl

variable (neg : Bool) (v : Nat)

@[simp] theorem Response.number_r0_neg : (Response.number neg v).r0.neg = neg := rfl
@[simp] theorem Response.number_r0_mag : (Response.number neg v).r0.mag = BitVec.ofNat 133 v := rfl
@[simp] theorem Response.number_warn : (Response.number neg v).warn = false := rfl
@[simp] theorem Response.number_r1 : (Response.number neg v).r1 = Response.zero.r1 := rfl
@[simp] theorem Response.number_flags : (Response.number neg v).flags = Response.zero.flags := rfl
@[simp] theorem Response.number_fs : (Response.number neg v).fs = false := rfl
@[simp] theorem Response.number_fe : (Response.number neg v).fe = 0 := rfl
@[simp] theorem Response.number_fsig : (Response.number neg v).fsig = 0 := rfl

/-- What `State.present` does to the requests: it takes them from those the state already held. -/
theorem State.present_cases :
    (s.pending = [] ∧ s.present = s) ∨
      ∃ p qs, s.pending = p :: qs ∧ s.present = { s with request := p, pending := qs } := by
  cases h : s.pending with
  | nil => exact .inl ⟨rfl, s.present_of_nil h⟩
  | cons p qs => exact .inr ⟨p, qs, rfl, s.present_of_cons p h⟩

end Sys2Proof.Machine
end

