-- ==== Sys2Proof/Laws/Ops.lean ====
section
/-! SUPPORT. What each shared operation can do, said once: the length check, reading the slice, delivering an answer, and each
datapath on a slice of the right and of the wrong length. -/

namespace Sys2Proof.Machine

theorem checkLen_of_eq {r : Request} {w : Nat} (h : r.len.toNat = w) : checkLen r w = .ok () := by
  simp [checkLen, h]

theorem checkLen_of_ne {r : Request} {w : Nat} (h : r.len.toNat ≠ w) :
    checkLen r w = .error (.raise (.invalidFieldLength r.len)) := by
  simp [checkLen, h]

/-- A read inside the slice gives the bytes of the slice (R33). -/
theorem memRead_inside {r : Request} {a n : Nat} (h : a + n ≤ r.onLanes) :
    memRead r a n = .ok ((List.range n).map fun i => r.byte (a + i)) := by
  simp [memRead, h]

/-- After the length check of a width of at most eight, every read the operation makes is inside the slice (R33). -/
theorem onLanes_of_len {r : Request} {w : Nat} (h : r.len.toNat = w) (hw : w ≤ 8) : r.onLanes = w := by
  simp [Request.onLanes, h, hw]

@[simp] theorem State.deliver_ok (s : State) (r : Response) : s.deliver (.ok r) = .next (s.giveResult r) := rfl

@[simp] theorem State.deliver_raise (s : State) (f : FduFault) :
    s.deliver (.error (.raise f)) = .next (s.takeFault f) := rfl

/-- What `State.deliver` can do: give a result, take a fault, or stop at an undefined read. -/
theorem State.deliver_cases (s : State) (x : Except Stop Response) :
    (∃ r, x = .ok r ∧ s.deliver x = .next (s.giveResult r)) ∨
      (∃ f, x = .error (.raise f) ∧ s.deliver x = .next (s.takeFault f)) ∨
      ∃ a n, x = .error (.undefinedRead a n) ∧ s.deliver x = .fault (.readOutsideSlice a n) := by
  match x with
  | .ok r => exact .inl ⟨r, rfl, rfl⟩
  | .error (.raise f) => exact .inr (.inl ⟨f, rfl, rfl⟩)
  | .error (.undefinedRead a n) => exact .inr (.inr ⟨a, n, rfl, rfl⟩)

theorem littleEndianInteger_of_len {r : Request} {w : Nat} (h : r.len.toNat = w) (hw : w ≤ 8) :
    littleEndianInteger w r = .ok (Response.number false (ule ((List.range w).map r.byte))) := by
  have hr := memRead_inside (r := r) (a := 0) (n := w) (by rw [onLanes_of_len h hw]; omega)
  simp only [littleEndianInteger, checkLen_of_eq h, hr]
  simp [bind, Except.bind, pure, Except.pure]

theorem littleEndianInteger_of_ne {r : Request} {w : Nat} (h : r.len.toNat ≠ w) :
    littleEndianInteger w r = .error (.raise (.invalidFieldLength r.len)) := by
  simp [littleEndianInteger, checkLen_of_ne h, bind, Except.bind]

theorem bigEndianInteger_of_len {r : Request} {w : Nat} (h : r.len.toNat = w) (hw : w ≤ 8) :
    bigEndianInteger w r = .ok (Response.number false (ube ((List.range w).map r.byte))) := by
  have hr := memRead_inside (r := r) (a := 0) (n := w) (by rw [onLanes_of_len h hw]; omega)
  simp only [bigEndianInteger, checkLen_of_eq h, hr]
  simp [bind, Except.bind, pure, Except.pure]

theorem bigEndianInteger_of_ne {r : Request} {w : Nat} (h : r.len.toNat ≠ w) :
    bigEndianInteger w r = .error (.raise (.invalidFieldLength r.len)) := by
  simp [bigEndianInteger, checkLen_of_ne h, bind, Except.bind]

theorem scaledUnsigned16_of_len {r : Request} (h : r.len.toNat = 2) :
    scaledUnsigned16 r = .ok (Response.number false (ule [r.byte 0, r.byte 1])) := by
  have hr := memRead_inside (r := r) (a := 0) (n := 2) (by rw [onLanes_of_len h (by decide)])
  simp only [scaledUnsigned16, checkLen_of_eq h, hr]
  rfl

theorem scaledUnsigned16_of_ne {r : Request} (h : r.len.toNat ≠ 2) :
    scaledUnsigned16 r = .error (.raise (.invalidFieldLength r.len)) := by
  simp [scaledUnsigned16, checkLen_of_ne h, bind, Except.bind]

theorem temperatureDatapath_of_len {r : Request} (h : r.len.toNat = 2) :
    temperatureDatapath r = .ok (Response.number (bit (ube [r.byte 0, r.byte 1]) 15)
      (hundredthsToTenths (magnitude16 (ube [r.byte 0, r.byte 1])))) := by
  have hr := memRead_inside (r := r) (a := 0) (n := 2) (by rw [onLanes_of_len h (by decide)])
  simp only [temperatureDatapath, checkLen_of_eq h, hr]
  rfl

theorem temperatureDatapath_of_ne {r : Request} (h : r.len.toNat ≠ 2) :
    temperatureDatapath r = .error (.raise (.invalidFieldLength r.len)) := by
  simp [temperatureDatapath, checkLen_of_ne h, bind, Except.bind]

theorem latlngDatapath_of_len {p : Params} {r : Request} (h : r.len.toNat = 8) :
    latlngDatapath p r = .ok (coordinatePair p.latlngSigned (ule [r.byte 0, r.byte 1, r.byte 2, r.byte 3])
      (ule [r.byte 4, r.byte 5, r.byte 6, r.byte 7])) := by
  have h0 := memRead_inside (r := r) (a := 0) (n := 4) (by rw [onLanes_of_len h (by decide)]; omega)
  have h4 := memRead_inside (r := r) (a := 4) (n := 4) (by rw [onLanes_of_len h (by decide)])
  simp only [latlngDatapath, checkLen_of_eq h, h0, h4]
  rfl

theorem latlngDatapath_of_ne {p : Params} {r : Request} (h : r.len.toNat ≠ 8) :
    latlngDatapath p r = .error (.raise (.invalidFieldLength r.len)) := by
  simp [latlngDatapath, checkLen_of_ne h, bind, Except.bind]

theorem rawfloatDatapath_of_len {r : Request} (h : r.len.toNat = 4) :
    rawfloatDatapath r = .ok (floatResponse (ule [r.byte 0, r.byte 1, r.byte 2, r.byte 3])) := by
  have hr := memRead_inside (r := r) (a := 0) (n := 4) (by rw [onLanes_of_len h (by decide)])
  simp only [rawfloatDatapath, checkLen_of_eq h, hr]
  rfl

theorem rawfloatDatapath_of_ne {r : Request} (h : r.len.toNat ≠ 4) :
    rawfloatDatapath r = .error (.raise (.invalidFieldLength r.len)) := by
  simp [rawfloatDatapath, checkLen_of_ne h, bind, Except.bind]

theorem bitmapDatapath_of_len {r : Request} (h : r.len.toNat = 1) :
    bitmapDatapath r = .ok { Response.zero with flags := flagsOf (r.byte 0).toNat } := by
  have hr := memRead_inside (r := r) (a := 0) (n := 1) (by rw [onLanes_of_len h (by decide)])
  simp only [bitmapDatapath, checkLen_of_eq h, hr]
  simp [bind, Except.bind, pure, Except.pure, ule]

theorem bitmapDatapath_of_ne {r : Request} (h : r.len.toNat ≠ 1) :
    bitmapDatapath r = .error (.raise (.invalidFieldLength r.len)) := by
  simp [bitmapDatapath, checkLen_of_ne h, bind, Except.bind]

theorem rtcsrcDatapath_of_len {r : Request} (h : r.len.toNat = 1) :
    rtcsrcDatapath r = if (r.byte 0).toNat ≤ 4 then .ok (Response.number false (r.byte 0).toNat)
      else .error (.raise (.unknownEnumValue (r.byte 0))) := by
  have hr := memRead_inside (r := r) (a := 0) (n := 1) (by rw [onLanes_of_len h (by decide)])
  simp only [rtcsrcDatapath, checkLen_of_eq h, hr]
  by_cases hc : (r.byte 0).toNat ≤ 4
  · simp [bind, Except.bind, pure, Except.pure, ule, hc, Nat.not_lt.2 hc]
  · simp [bind, Except.bind, ule, hc, Nat.lt_of_not_le hc]

theorem rtcsrcDatapath_of_ne {r : Request} (h : r.len.toNat ≠ 1) :
    rtcsrcDatapath r = .error (.raise (.invalidFieldLength r.len)) := by
  simp [rtcsrcDatapath, checkLen_of_ne h, bind, Except.bind]

/-- The code an operation decodes from is its own (R53): a step on it runs it. -/
theorem step_of_decode {s : State} {i : Instr} (h : decode s.present.request.opsel = i) : step s = exec i s.present := by
  rw [step, h]

end Sys2Proof.Machine
end

