-- ==== Sys2Proof/Laws/PerInstr.lean ====
section
/-! SUPPORT. One law per constructor: an instruction is an operation exactly when its code is below 0xD (R53, R55), and the width of
an operation is between one byte and the eight lanes there are (R6). -/

namespace Sys2Proof.Laws.CodeAndWidth

def Statement (i : Instr) : Prop :=
  (i.wf = true ↔ (encode i).toNat ≤ 12) ∧ ∀ w, width i = some w → 1 ≤ w ∧ w ≤ 8

theorem uint8 : Statement .uint8 := by simp [Statement, Instr.wf, width, encode]
theorem uint16 : Statement .uint16 := by simp [Statement, Instr.wf, width, encode]
theorem uint32 : Statement .uint32 := by simp [Statement, Instr.wf, width, encode]
theorem uint16be : Statement .uint16be := by simp [Statement, Instr.wf, width, encode]
theorem uint32be : Statement .uint32be := by simp [Statement, Instr.wf, width, encode]
theorem uint16fp1 : Statement .uint16fp1 := by simp [Statement, Instr.wf, width, encode]
theorem unixtime : Statement .unixtime := by simp [Statement, Instr.wf, width, encode]
theorem temperature : Statement .temperature := by simp [Statement, Instr.wf, width, encode]
theorem humidity : Statement .humidity := by simp [Statement, Instr.wf, width, encode]
theorem latlng : Statement .latlng := by simp [Statement, Instr.wf, width, encode]
theorem rawfloat : Statement .rawfloat := by simp [Statement, Instr.wf, width, encode]
theorem bitmap : Statement .bitmap := by simp [Statement, Instr.wf, width, encode]
theorem rtcsrc : Statement .rtcsrc := by simp [Statement, Instr.wf, width, encode]
theorem reservedD : Statement .reservedD := by simp [Statement, Instr.wf, width, encode]
theorem reservedE : Statement .reservedE := by simp [Statement, Instr.wf, width, encode]
theorem reservedF : Statement .reservedF := by simp [Statement, Instr.wf, width, encode]

end Sys2Proof.Laws.CodeAndWidth
end

