-- ==== Sys2Proof/Tests/Slice0.lean ====
section
/-! SUPPORT. Tests of one transaction each, expected results from the vectors of spec/95_test_vectors.md and the corner cases of
the rules; the smoke tests of WellFormed; and, for every statement with hypotheses, a state that meets them. -/

namespace Sys2Proof.Tests

open Sys2Proof.Machine

/-- A request standing on the ports, nothing lined up. -/
def onPorts (op : BitVec 4) (bs : List Byte) : State := { State.reset with request := Request.ofSlice op bs }

/-- The same with LATLNG_SIGNED false. -/
def unsignedPorts (op : BitVec 4) (bs : List Byte) : State := { onPorts op bs with params := { latlngSigned := false } }

/-- The answer a step gives, if it gives one. -/
def answerOf : Host.Outcome State Fault Refusal → Option Answer
  | .next t => some t.answer
  | .fault _ => none
  | .refused _ => none

/-- The answer to an operation and a slice, in one step from the state after reset. -/
def ask (op : BitVec 4) (bs : List Byte) : Option Answer :=
  answerOf (step (State.reset.drive (Request.ofSlice op bs)))

/-- A result on R0 alone. -/
def r0 (neg : Bool) (mag : BitVec 133) : Option Answer := some (.ok { Response.zero with r0 := { neg := neg, mag := mag } })

/-! ### Decoding: the words of R53 and R55, bit by bit -/

theorem test_decode_uint8 : decode 0b0000#4 = .uint8 := by decide
theorem test_decode_uint16 : decode 0b0001#4 = .uint16 := by decide
theorem test_decode_uint32 : decode 0b0010#4 = .uint32 := by decide
theorem test_decode_uint16be : decode 0b0011#4 = .uint16be := by decide
theorem test_decode_uint32be : decode 0b0100#4 = .uint32be := by decide
theorem test_decode_uint16fp1 : decode 0b0101#4 = .uint16fp1 := by decide
theorem test_decode_unixtime : decode 0b0110#4 = .unixtime := by decide
theorem test_decode_temperature : decode 0b0111#4 = .temperature := by decide
theorem test_decode_humidity : decode 0b1000#4 = .humidity := by decide
theorem test_decode_latlng : decode 0b1001#4 = .latlng := by decide
theorem test_decode_rawfloat : decode 0b1010#4 = .rawfloat := by decide
theorem test_decode_bitmap : decode 0b1011#4 = .bitmap := by decide
theorem test_decode_rtcsrc : decode 0b1100#4 = .rtcsrc := by decide
theorem test_decode_reserved :
    decode 0b1101#4 = .reservedD ∧ decode 0b1110#4 = .reservedE ∧ decode 0b1111#4 = .reservedF := by decide

/-- R51: the image `72 FF 9C` is TEMPERATURE, LEN 2, on the bytes FF 9C. -/
theorem test_image_of_temperature :
    decodeImage [0x72, 0xFF, 0x9C, 0x55] = .ok (Request.ofSlice 0x7 [0xFF, 0x9C], [0x55]) := by decide

/-- Section 2 of the vectors: `82 10 0E` is the image of HUMIDITY 10 0E. -/
theorem test_encode_image_of_humidity : encodeImage (Request.ofSlice 0x8 [0x10, 0x0E]) = [0x82, 0x10, 0x0E] := by decide

theorem test_image_too_short : decodeImage [0x44, 0x00] = .error (.short 4 1) := by decide

theorem test_fetch_word_runs_temperature :
    step (State.reset.withFetchWord 8 0x7) = exec .temperature (onPorts 0x7 [0, 0]) := rfl

/-! ### WellFormed: each check refuses an ill-formed term -/

theorem test_reserved_code_is_not_well_formed : Instr.wf .reservedD = false := by decide
theorem test_falling_lanes_are_not_well_formed : Memory.wf [(3, 1), (2, 1)] = false := by decide
theorem test_zero_entry_is_not_well_formed : Memory.wf [(3, 0)] = false := by decide
theorem test_ninth_lane_is_not_well_formed : Memory.wf [(8, 1)] = false := by decide
theorem test_request_with_zero_entry : Request.wf { opsel := 0, len := 1, lanes := [(0, 0)] } = false := by decide
theorem test_wrong_length_breaks_contract : Request.lenOk .uint16 (Request.ofSlice 0x1 [0x2C]) = false := by decide
theorem test_unmapped_byte_breaks_contract : Request.dataOk .rtcsrc (Request.ofSlice 0xC [5]) = false := by decide
theorem test_contract_refuses_reserved : Request.meets .reservedF (Request.ofSlice 0xF []) = false := by decide
theorem test_state_with_bad_pending :
    State.wf { State.reset with pending := [{ opsel := 0, len := 1, lanes := [(9, 1)] }] } = false := by decide

/-! ### One transaction each -/

theorem test_uint8_unsigned : ask 0x0 [0xFF] = r0 false 255 := by decide
theorem test_uint8_empty : ask 0x0 [] = some (.error (.invalidFieldLength 0)) := by decide
theorem test_uint16_low_byte_first : ask 0x1 [0x2C, 0x01] = r0 false 300 := by decide
theorem test_uint16_too_long : ask 0x1 [0x2C, 0x01, 0x00] = some (.error (.invalidFieldLength 3)) := by decide
theorem test_uint32_top_bit_positive : ask 0x2 [0x00, 0x00, 0x00, 0x80] = r0 false 2147483648 := by decide
theorem test_uint32_order : ask 0x2 [0x78, 0x56, 0x34, 0x12] = r0 false 305419896 := by decide
theorem test_uint16be_high_byte_first : ask 0x3 [0x2C, 0x01] = r0 false 11265 := by decide
theorem test_uint32be_order : ask 0x4 [0x65, 0x4F, 0x1A, 0x80] = r0 false 1699682944 := by decide
theorem test_uint16fp1_tenths : ask 0x5 [0xE7, 0x0C] = r0 false 3303 := by decide
theorem test_unixtime_little_endian : ask 0x6 [0x65, 0x4F, 0x1A, 0x80] = r0 false 2149207909 := by decide
theorem test_temperature_minimum : ask 0x7 [0x80, 0x00] = r0 true 3277 := by decide
theorem test_temperature_tie_away_from_zero : ask 0x7 [0xFF, 0xFB] = r0 true 1 := by decide
theorem test_humidity_hundredths : ask 0x8 [0xD2, 0x04] = r0 false 1234 := by decide
theorem test_humidity_too_long : ask 0x8 [0x10, 0x0E, 0x00] = some (.error (.invalidFieldLength 3)) := by decide

theorem test_latlng_signed :
    ask 0x9 [0xB9, 0xA4, 0x87, 0x02, 0x87, 0xAC, 0x70, 0xFB] =
      some (.ok { Response.zero with r0 := { neg := false, mag := 42443961 }, r1 := { neg := true, mag := 76501881 } }) := by
  decide

theorem test_latlng_unsigned :
    answerOf (step (unsignedPorts 0x9 [0xB9, 0xA4, 0x87, 0x02, 0x87, 0xAC, 0x70, 0xFB])) =
      some (.ok { Response.zero with r0 := { neg := false, mag := 42443961 }, r1 := { neg := false, mag := 4218465415 } }) := by
  decide

theorem test_rawfloat_tie :
    ask 0xA [0x00, 0x00, 0x80, 0xBE] =
      some (.ok { Response.zero with r0 := { neg := true, mag := 3 }, fs := true, fe := 125, fsig := 0x800000 }) := by decide

theorem test_rawfloat_exponent_255 :
    ask 0xA [0xFF, 0xFF, 0xFF, 0x7F] =
      some (.ok { Response.zero with
        warn := true
        r0 := { neg := false, mag := 6805646932770577196234083669690338508800 }
        fe := 255
        fsig := 0xFFFFFF }) := by decide

theorem test_bitmap_most_significant_first :
    ask 0xB [0xA1] = some (.ok { Response.zero with flags := #v[true, false, true, false, false, false, false, true] }) := by
  decide

theorem test_rtcsrc_last_code : ask 0xC [0x04] = r0 false 4 := by decide
theorem test_rtcsrc_length_outranks_value : ask 0xC [0x09, 0x00] = some (.error (.invalidFieldLength 2)) := by decide
theorem test_rtcsrc_first_illegal : ask 0xC [0x05] = some (.error (.unknownEnumValue 5)) := by decide
theorem test_reserved_d : ask 0xD [0x00] = some (.error (.illegalOp 13)) := by decide
theorem test_reserved_e : ask 0xE [0x01, 0x02, 0x03, 0x04] = some (.error (.illegalOp 14)) := by decide
theorem test_reserved_f : ask 0xF [] = some (.error (.illegalOp 15)) := by decide

/-- 95, section 2.2: the text of TEMPERATURE FF 9C is "-1.0". -/
theorem test_text_of_minus_one : text1 true 10 = ['-', '1', '.', '0'] := by decide

/-- 95, P1c: seven bytes are too few for the eight of port 1. -/
theorem test_host_buffer_too_short :
    runScript State.reset [0xA5, 0x09, 0x29, 0x37, 0x2C, 0x0D, 0x10]
      (layoutFrom 0 [.bitmap, .temperature, .uint8, .uint16, .uint16]) = .bufferTooShort := by decide

/-- 95, P2b: the fault of the second field replaces the record. -/
theorem test_host_fails_fast :
    runScript State.reset [0x65, 0x4F, 0x1A, 0x80, 0x07] [(.uint32be, 0), (.rtcsrc, 4)] =
      .fieldFault (.unknownEnumValue 7) := by decide

/-! ### Witnesses: a state that meets the hypotheses of each statement that has some -/

theorem witness_SelectCodesRoundTrip : 12 < (0xD#4).toNat := by decide

theorem witness_RequestImageRoundTrip :
    (Request.ofSlice 0x7 [0xFF, 0x9C]).wf = true ∧
      ∀ k, (Request.ofSlice 0x7 [0xFF, 0x9C]).onLanes ≤ k → (Request.ofSlice 0x7 [0xFF, 0x9C]).byte k = 0 := by
  refine ⟨by decide, fun k hk => ?_⟩
  have hk' : 2 ≤ k := hk
  rw [Request.byte, Request.ofSlice, Memory.read_ofBytes, List.getD_eq_default _ _ hk', ite_self]

theorem witness_RequestImageKeepsTheSlice : 7 < (Request.ofSlice 0x9 [1, 2, 3, 4, 5, 6, 7, 8, 9]).onLanes := by decide

theorem witness_MalformedImagesAreRefused : ([0xFF] : List Byte).length < min ((0x72#8).toNat % 16) 8 := by decide

theorem witness_StepRunsTheDecodedOperation :
    decode (onPorts 0x7 [0xFF, 0x9C]).present.request.opsel = .temperature ∧ (onPorts 0x7 []).pending = [] ∧
      (State.reset.drive (Request.ofSlice 0x7 [])).pending = Request.ofSlice 0x7 [] :: [] := by decide

theorem witness_FetchWordRunsTheTableRow : decodeTableWord 8 0xA = some .rawfloat := by decide

/-- The request of the image clause of each result: its code, with LEN its width. -/
theorem witness_images_of_results :
    ∀ op : BitVec 4, ∀ w ∈ width (decode op), (Request.ofSlice op (List.replicate w 0xA5)).opsel = op ∧
      (Request.ofSlice op (List.replicate w 0xA5)).len = BitVec.ofNat 4 w := by decide

/-- A slice of the width, and one of another length. -/
theorem witness_Uint8Result :
    (onPorts 0x0 [0x37]).request.len.toNat = 1 ∧ (onPorts 0x0 []).request.len.toNat ≠ 1 := by decide
theorem witness_Uint16Result :
    (onPorts 0x1 [0x2C, 0x01]).request.len.toNat = 2 ∧ (onPorts 0x1 [0x2C]).request.len.toNat ≠ 2 := by decide
theorem witness_Uint32Result :
    (onPorts 0x2 [1, 2, 3, 0]).request.len.toNat = 4 ∧ (onPorts 0x2 [1, 2, 3]).request.len.toNat ≠ 4 := by decide
theorem witness_Uint16beResult :
    (onPorts 0x3 [0x01, 0x2C]).request.len.toNat = 2 ∧ (onPorts 0x3 [1, 2, 3]).request.len.toNat ≠ 2 := by decide
theorem witness_Uint32beResult :
    (onPorts 0x4 [1, 2, 3, 4]).request.len.toNat = 4 ∧ (onPorts 0x4 [1, 2, 3, 4, 5]).request.len.toNat ≠ 4 := by decide
theorem witness_UnixtimeResult :
    (onPorts 0x6 [1, 2, 3, 4]).request.len.toNat = 4 ∧ (onPorts 0x6 []).request.len.toNat ≠ 4 := by decide
theorem witness_Uint16fp1Result :
    (onPorts 0x5 [0x2C, 0x01]).request.len.toNat = 2 ∧ (onPorts 0x5 []).request.len.toNat ≠ 2 := by decide
theorem witness_HumidityResult :
    (onPorts 0x8 [0x10, 0x0E]).request.len.toNat = 2 ∧ (onPorts 0x8 [0x10]).request.len.toNat ≠ 2 := by decide
theorem witness_BitmapResult :
    (onPorts 0xB [0xA5]).request.len.toNat = 1 ∧ (onPorts 0xB [0xA5, 0]).request.len.toNat ≠ 1 := by decide

/-- The minimum and the maximum pattern, and a slice of one byte. -/
theorem witness_TemperatureResult :
    (0x8000 = 256 * ((onPorts 0x7 [0x80, 0]).request.byte 0).toNat + ((onPorts 0x7 [0x80, 0]).request.byte 1).toNat ∧
      (onPorts 0x7 [0x80, 0]).request.len.toNat = 2) ∧
    (0x7FFF = 256 * ((onPorts 0x7 [0x7F, 0xFF]).request.byte 0).toNat + ((onPorts 0x7 [0x7F, 0xFF]).request.byte 1).toNat ∧
      (onPorts 0x7 [0x7F, 0xFF]).request.len.toNat = 2) ∧
    (0xFF00 = 256 * ((onPorts 0x7 [0xFF]).request.byte 0).toNat + ((onPorts 0x7 [0xFF]).request.byte 1).toNat ∧
      (onPorts 0x7 [0xFF]).request.len.toNat ≠ 2) := by decide

theorem witness_TwosComplementMagnitudeOfTemperature :
    ((0x7FFF : Nat) < 2 ^ 16 ∧ bit 0x7FFF 15 = false) ∧ ((0x8000 : Nat) < 2 ^ 16 ∧ bit 0x8000 15 = true) := by decide

theorem witness_TemperatureRoundsToNearestTenth :
    ((onPorts 0x7 [0xFF, 0xFB]).request.len.toNat = 2 ∧
      (sext 16 (operand16 ((onPorts 0x7 [0xFF, 0xFB]).request.byte 1) ((onPorts 0x7 [0xFF, 0xFB]).request.byte 0))).natAbs % 10 = 5) ∧
    0xFFFC ≤ (0xFFFC#16).toNat ∧ 0xFFFC ≤ (0xFFFF#16).toNat := by decide

theorem witness_LatlngResult :
    ((onPorts 0x9 [0, 0, 0, 0x80, 0xFF, 0xFF, 0xFF, 0x7F]).request.len.toNat = 8 ∧
      (onPorts 0x9 [0, 0, 0, 0x80, 0xFF, 0xFF, 0xFF, 0x7F]).params.latlngSigned = true) ∧
    ((unsignedPorts 0x9 [0, 0, 0, 0x80, 0xFF, 0xFF, 0xFF, 0x7F]).request.len.toNat = 8 ∧
      (unsignedPorts 0x9 [0, 0, 0, 0x80, 0xFF, 0xFF, 0xFF, 0x7F]).params.latlngSigned = false) ∧
    (onPorts 0x9 [0, 0x75, 0x19, 0x03]).request.len.toNat ≠ 8 := by decide

theorem witness_SignedCoordinatesAreExact :
    (onPorts 0x9 [0xFF, 0xFF, 0xFF, 0xFF, 0, 0, 0, 0x80]).params.latlngSigned = true ∧
      (onPorts 0x9 [0xFF, 0xFF, 0xFF, 0xFF, 0, 0, 0, 0x80]).request.len.toNat = 8 ∧
      (coordinatePair true 0xFFFFFFFF 0x80000000).r0.neg = true ∧ (coordinatePair true 0xFFFFFFFF 0x80000000).r1.neg = true := by
  decide

theorem witness_CoordinateReadings :
    ((unsignedPorts 0x9 [1, 2, 3, 4, 5, 6, 7, 8]).params.latlngSigned = false ∧
      (unsignedPorts 0x9 [1, 2, 3, 4, 5, 6, 7, 8]).request.len.toNat = 8 ∧
      (onPorts 0x2 [1, 2, 3, 4]).request = Request.ofSlice 0x2
        [(unsignedPorts 0x9 [1, 2, 3, 4, 5, 6, 7, 8]).request.byte 0, (unsignedPorts 0x9 [1, 2, 3, 4, 5, 6, 7, 8]).request.byte 1,
         (unsignedPorts 0x9 [1, 2, 3, 4, 5, 6, 7, 8]).request.byte 2, (unsignedPorts 0x9 [1, 2, 3, 4, 5, 6, 7, 8]).request.byte 3] ∧
      (onPorts 0x2 [5, 6, 7, 8]).request = Request.ofSlice 0x2
        [(unsignedPorts 0x9 [1, 2, 3, 4, 5, 6, 7, 8]).request.byte 4, (unsignedPorts 0x9 [1, 2, 3, 4, 5, 6, 7, 8]).request.byte 5,
         (unsignedPorts 0x9 [1, 2, 3, 4, 5, 6, 7, 8]).request.byte 6, (unsignedPorts 0x9 [1, 2, 3, 4, 5, 6, 7, 8]).request.byte 7]) ∧
    ((onPorts 0x9 [0, 0, 0, 0x7F, 0, 0, 0, 0x7F]).request = (unsignedPorts 0x9 [0, 0, 0, 0x7F, 0, 0, 0, 0x7F]).request ∧
      (onPorts 0x9 [0, 0, 0, 0x7F, 0, 0, 0, 0x7F]).request.len.toNat = 8 ∧
      ((onPorts 0x9 [0, 0, 0, 0x7F, 0, 0, 0, 0x7F]).request.byte 3).toNat < 0x80 ∧
      ((onPorts 0x9 [0, 0, 0, 0x7F, 0, 0, 0, 0x7F]).request.byte 7).toNat < 0x80) := by decide

theorem witness_CoordinateLanesAreIndependent :
    (onPorts 0x9 [1, 2, 3, 0x84, 1, 2, 3, 0x84]).params = (onPorts 0x9 [1, 2, 3, 0x84, 1, 2, 3, 0x84]).params ∧
      (onPorts 0x9 [1, 2, 3, 0x84, 1, 2, 3, 0x84]).request.len.toNat = 8 ∧
      (∀ k, k < 4 → (onPorts 0x9 [1, 2, 3, 0x84, 1, 2, 3, 0x84]).request.byte k =
        (onPorts 0x9 [1, 2, 3, 0x84, 5, 6, 7, 8]).request.byte k) ∧
      (∀ k, k < 4 → (onPorts 0x9 [1, 2, 3, 0x84, 1, 2, 3, 0x84]).request.byte (4 + k) =
        (onPorts 0x9 [5, 6, 7, 8, 1, 2, 3, 0x84]).request.byte (4 + k)) ∧
      (∀ k, k < 4 → (onPorts 0x9 [1, 2, 3, 0x84, 1, 2, 3, 0x84]).request.byte k =
        (onPorts 0x9 [5, 6, 7, 8, 1, 2, 3, 0x84]).request.byte (4 + k)) := by decide

theorem witness_ParameterReachesOnlyLatlng :
    Instr.rawfloat ≠ .latlng ∧ (onPorts 0xA [1, 2, 3, 4]).request = (unsignedPorts 0xA [1, 2, 3, 4]).request := by decide

theorem witness_ParameterIsFixed :
    exec .latlng (unsignedPorts 0x9 []) =
        .next { unsignedPorts 0x9 [] with answer := .error (.invalidFieldLength 0) } ∧
      step (unsignedPorts 0x9 []) =
        .next { unsignedPorts 0x9 [] with answer := .error (.invalidFieldLength 0) } := ⟨rfl, rfl⟩

theorem witness_HostChecksTotalLength :
    bytesNeeded [(.uint32be, 0), (.rtcsrc, 4)] ≤ ([0x65, 0x4F, 0x1A, 0x80, 0x07] : List Byte).length := by decide

theorem witness_IntegerOperationsAreBijections :
    Instr.uint32be ∈ [Instr.uint8, .uint16, .uint32, .uint16be, .uint32be, .unixtime] ∧ width .uint32be = some 4 ∧
      (4294967295 : Nat) < 2 ^ (8 * 4) ∧ (onPorts 0x4 [1, 2, 3, 4]).request.len.toNat = 4 := by decide

/-- Exponent fields 0 and 255, and a slice of five bytes. -/
theorem witness_RawfloatResult :
    (0x007FFFFF = operand32 0xFF 0xFF 0x7F 0 ∧ 0 = 0x007FFFFF / 2 ^ 23 % 2 ^ 8 ∧
      0x7FFFFF = (if (0 : Nat) = 0 then 0x007FFFFF % 2 ^ 23 else 0x007FFFFF % 2 ^ 23 + 2 ^ 23) ∧
      (onPorts 0xA [0xFF, 0xFF, 0x7F, 0]).request.len.toNat = 4) ∧
    (0xFF800000 = operand32 0 0 0x80 0xFF ∧ 255 = 0xFF800000 / 2 ^ 23 % 2 ^ 8 ∧
      0x800000 = (if (255 : Nat) = 0 then 0xFF800000 % 2 ^ 23 else 0xFF800000 % 2 ^ 23 + 2 ^ 23) ∧
      (onPorts 0xA [0, 0, 0x80, 0xFF]).request.len.toNat = 4) ∧
    (onPorts 0xA [0, 0, 0x80, 0x3F, 0]).request.len.toNat ≠ 4 := by decide

/-- Two different states whose slices have the same three fields. -/
theorem witness_FloatFieldsDetermineTheSlice :
    (onPorts 0xA [0, 0, 0x80, 0x3F]).request.len.toNat = 4 ∧ (unsignedPorts 0xA [0, 0, 0x80, 0x3F]).request.len.toNat = 4 ∧
      answerOf (exec .rawfloat (onPorts 0xA [0, 0, 0x80, 0x3F])) =
        answerOf (exec .rawfloat (unsignedPorts 0xA [0, 0, 0x80, 0x3F])) := by decide

theorem witness_FloatRoundsToNearestTenth : (onPorts 0xA [0, 0, 0x80, 0xBE]).request.len.toNat = 4 := by decide

/-- Exponent fields 121, 122, 150, 254 and 255. -/
theorem witness_FloatRanges :
    (onPorts 0xA [0xFF, 0xFF, 0xFF, 0x3C]).request.len.toNat = 4 ∧ (floatResponse 0x3CFFFFFF).fe.toNat = 121 ∧
      (floatResponse 0x3D4CCCCD).fe.toNat = 122 ∧ (floatResponse 0x4B000000).fe.toNat = 150 ∧
      (floatResponse 0x7F7FFFFF).fe.toNat = 254 ∧ (floatResponse 0x7FFFFFFF).fe.toNat = 255 := by decide

theorem witness_RtcsrcResult :
    ((onPorts 0xC [4]).request.len.toNat = 1 ∧ ((onPorts 0xC [4]).request.byte 0).toNat ≤ 4) ∧
    ((onPorts 0xC [5]).request.len.toNat = 1 ∧ 4 < ((onPorts 0xC [5]).request.byte 0).toNat) ∧
    (onPorts 0xC [9, 0]).request.len.toNat ≠ 1 ∧ 4 < 5 := by decide

theorem witness_WrongLengthFaultsEveryOperation :
    (width .latlng = some 8 ∧ (onPorts 0x9 [1, 2, 3, 4, 5, 6, 7]).request.len.toNat ≠ 8) ∧
    (width .latlng = some 8 ∧ (onPorts 0x9 [1, 2, 3, 4, 5, 6, 7, 8, 9]).request.len.toNat ≠ 8) ∧
    (Instr.wf .latlng = true ∧ (onPorts 0x9 []).request.len = 0) := by decide

/-- A next state for each of the four kinds of answer. -/
theorem witness_FaultKindsCausesAndCodes :
    exec .rtcsrc (onPorts 0xC [1]) =
      .next { onPorts 0xC [1] with answer := .ok { Response.zero with r0 := { neg := false, mag := 1 } } } ∧
    exec .rtcsrc (onPorts 0xC []) = .next { onPorts 0xC [] with answer := .error (.invalidFieldLength 0) } ∧
    exec .rtcsrc (onPorts 0xC [7]) = .next { onPorts 0xC [7] with answer := .error (.unknownEnumValue 7) } ∧
    exec .reservedE (onPorts 0xE [7]) = .next { onPorts 0xE [7] with answer := .error (.illegalOp 0xE) } := ⟨rfl, rfl, rfl, rfl⟩

theorem witness_FaultPriority :
    (13 ≤ (onPorts 0xD [9, 9]).present.request.opsel.toNat) ∧
    (width (decode (onPorts 0xC [9, 0]).present.request.opsel) = some 1 ∧ (onPorts 0xC [9, 0]).present.request.len.toNat ≠ 1) ∧
    ((onPorts 0xC [9]).present.request.opsel = 0xC ∧ (onPorts 0xC [9]).present.request.len.toNat = 1 ∧
      4 < ((onPorts 0xC [9]).present.request.byte 0).toNat) ∧
    (width (decode (onPorts 0xC [4]).present.request.opsel) = some 1 ∧ (onPorts 0xC [4]).present.request.len.toNat = 1 ∧
      ((onPorts 0xC [4]).present.request.byte 0).toNat ≤ 4) := by decide

theorem witness_OperationsAreTotalOverTheirData :
    ((onPorts 0xA [0xFF, 0xFF, 0xFF, 0x7F]).request.len.toNat = 4 ∧
      operand32 ((onPorts 0xA [0xFF, 0xFF, 0xFF, 0x7F]).request.byte 0) ((onPorts 0xA [0xFF, 0xFF, 0xFF, 0x7F]).request.byte 1)
        ((onPorts 0xA [0xFF, 0xFF, 0xFF, 0x7F]).request.byte 2) ((onPorts 0xA [0xFF, 0xFF, 0xFF, 0x7F]).request.byte 3)
        / 2 ^ 23 % 2 ^ 8 = 255) ∧
    (Instr.wf .rawfloat = true ∧ Instr.rawfloat ≠ .rtcsrc ∧ width .rawfloat = some (onPorts 0xA [0, 0, 0x80, 0x7F]).request.len.toNat) ∧
    ((onPorts 0xC [4]).request.len.toNat = 1 ∧ ((onPorts 0xC [4]).request.byte 0).toNat ≤ 4) ∧
    ((onPorts 0xC [5]).request.len.toNat = 1 ∧ ¬ ((onPorts 0xC [5]).request.byte 0).toNat ≤ 4) := by decide

theorem witness_FrameOfEveryOperation :
    exec .bitmap (onPorts 0xB [0, 0]) = .next { onPorts 0xB [0, 0] with answer := .error (.invalidFieldLength 2) } := rfl

/-- BITMAP, an integer operation and a float with WARN, each answered with a result. -/
theorem witness_UnwrittenPortsAreZero :
    exec .bitmap (onPorts 0xB [0x80]) =
      .next { onPorts 0xB [0x80] with
        answer := .ok { Response.zero with flags := #v[true, false, false, false, false, false, false, false] } } ∧
    exec .uint8 (onPorts 0x0 [9]) =
      .next { onPorts 0x0 [9] with answer := .ok { Response.zero with r0 := { neg := false, mag := 9 } } } := ⟨rfl, rfl⟩

theorem witness_WarnMarksExponent255Only :
    exec .rawfloat (onPorts 0xA [0, 0, 0x80, 0x7F]) =
      .next { onPorts 0xA [0, 0, 0x80, 0x7F] with
        answer := .ok { Response.zero with
          warn := true
          r0 := { neg := false, mag := 3402823669209384634633746074317682114560 }
          fe := 255
          fsig := 0x800000 } } := rfl

/-- R24: two states that differ in a lane outside the slice; and two of the wrong length that differ in every lane. -/
theorem witness_LaneIndependence :
    (width .uint16 = some ({ opsel := 1, len := 2, lanes := [(0, 0x2C), (1, 1)] } : Request).len.toNat ∧
      ∀ k, k < 2 → ({ opsel := 1, len := 2, lanes := [(0, 0x2C), (1, 1)] } : Request).byte k =
        ({ opsel := 1, len := 2, lanes := [(0, 0x2C), (1, 1), (7, 9)] } : Request).byte k) ∧
    ((onPorts 0x1 [1]).params = (onPorts 0x1 [2]).params ∧ (onPorts 0x1 [1]).request.len = (onPorts 0x1 [2]).request.len ∧
      width .uint16 ≠ some (onPorts 0x1 [1]).request.len.toNat) := by decide

theorem witness_ResponseIgnoresEarlierTransactions : (onPorts 0x1 [1]).params = (onPorts 0xF []).params := by decide

theorem witness_HeldRequestKeepsItsAnswer :
    step (onPorts 0xF []) = .next { onPorts 0xF [] with answer := .error (.illegalOp 0xF) } ∧
      ({ onPorts 0xF [] with answer := .error (.illegalOp 0xF) } : State).pending = [] := ⟨rfl, rfl⟩

theorem witness_LanesThatReadAlikeAreEqual :
    Memory.wf [(0, 1), (7, 2)] = true ∧ ∀ a, a < 8 → Memory.read [(0, 1), (7, 2)] a =
      Memory.read (Memory.ofBytes [1, 0, 0, 0, 0, 0, 0, 2]) a := by decide

theorem witness_LongSlicesFault :
    Instr.wf .latlng = true ∧ 9 ≤ ([1, 2, 3, 4, 5, 6, 7, 8, 9] : List Byte).length := by decide

theorem witness_MachineRefinesPureFunction :
    (onPorts 0x9 [1, 2, 3, 4, 5, 6, 7, 8, 9]).request.len.toNat = min ([1, 2, 3, 4, 5, 6, 7, 8, 9] : List Byte).length 15 ∧
      ∀ k, k < min ([1, 2, 3, 4, 5, 6, 7, 8, 9] : List Byte).length 8 →
        (onPorts 0x9 [1, 2, 3, 4, 5, 6, 7, 8, 9]).request.byte k = ([1, 2, 3, 4, 5, 6, 7, 8, 9] : List Byte).getD k 0 := by decide

/-- A settled state with a request lined up, and its next state. -/
theorem witness_StepKeepsInvariant :
    Inv (State.reset.drive (Request.ofSlice 0xC [3])) ∧
      step (State.reset.drive (Request.ofSlice 0xC [3])) =
        .next { onPorts 0xC [3] with answer := .ok { Response.zero with r0 := { neg := false, mag := 3 } } } :=
  ⟨⟨by decide, rfl⟩, rfl⟩

theorem witness_FourBlocksUnit : Instr.latlng ≠ .bitmap ∧ Instr.latlng ≠ .rtcsrc := by decide

theorem witness_HostNeverSeesWrongLength :
    ∀ f ∈ ([(.uint32be, 0), (.rtcsrc, 4)] : Script), f.1.wf = true := by decide

theorem witness_TextDeterminesTheResult : text1 true 0 = text1 true 0 ∧ 10 ≤ 10 := by decide

end Sys2Proof.Tests
end

/-! PROOFS. The answer of every operation as a function of the parameters and the request (R10, R33), and O45. -/

namespace Sys2Proof.Machine

/-- What each operation computes, from the parameters and the request alone; `exec_eq_deliver` ties it to `exec`. -/
def datapath : Instr → Params → Request → Except Stop Response
  | .uint8, _, q => littleEndianInteger 1 q
  | .uint16, _, q => littleEndianInteger 2 q
  | .uint32, _, q => littleEndianInteger 4 q
  | .uint16be, _, q => bigEndianInteger 2 q
  | .uint32be, _, q => bigEndianInteger 4 q
  | .uint16fp1, _, q => scaledUnsigned16 q
  | .unixtime, _, q => littleEndianInteger 4 q
  | .temperature, _, q => temperatureDatapath q
  | .humidity, _, q => scaledUnsigned16 q
  | .latlng, p, q => latlngDatapath p q
  | .rawfloat, _, q => rawfloatDatapath q
  | .bitmap, _, q => bitmapDatapath q
  | .rtcsrc, _, q => rtcsrcDatapath q
  | .reservedD, _, _ => .error (.raise (.illegalOp 0xD))
  | .reservedE, _, _ => .error (.raise (.illegalOp 0xE))
  | .reservedF, _, _ => .error (.raise (.illegalOp 0xF))

theorem exec_eq_deliver (i : Instr) (s : State) : exec i s = s.deliver (datapath i s.params s.request) := by
  cases i <;> rfl

/-- The datapath ends in a result or a fault of R150, never in an undefined read (R33). -/
def Answers (x : Except Stop Response) : Prop := ∃ a : Answer, x = a.mapError .raise

theorem Answers.ok {x : Except Stop Response} {r : Response} (h : x = .ok r) : Answers x := ⟨.ok r, h⟩

theorem Answers.raise {x : Except Stop Response} {f : FduFault} (h : x = .error (.raise f)) : Answers x := ⟨.error f, h⟩

theorem littleEndianInteger_answers {w : Nat} (hw : w ≤ 8) (q : Request) : Answers (littleEndianInteger w q) := by
  by_cases h : q.len.toNat = w
  · exact .ok (littleEndianInteger_of_len h hw)
  · exact .raise (littleEndianInteger_of_ne h)

theorem bigEndianInteger_answers {w : Nat} (hw : w ≤ 8) (q : Request) : Answers (bigEndianInteger w q) := by
  by_cases h : q.len.toNat = w
  · exact .ok (bigEndianInteger_of_len h hw)
  · exact .raise (bigEndianInteger_of_ne h)

theorem scaledUnsigned16_answers (q : Request) : Answers (scaledUnsigned16 q) := by
  by_cases h : q.len.toNat = 2
  · exact .ok (scaledUnsigned16_of_len h)
  · exact .raise (scaledUnsigned16_of_ne h)

theorem temperatureDatapath_answers (q : Request) : Answers (temperatureDatapath q) := by
  by_cases h : q.len.toNat = 2
  · exact .ok (temperatureDatapath_of_len h)
  · exact .raise (temperatureDatapath_of_ne h)

theorem latlngDatapath_answers (p : Params) (q : Request) : Answers (latlngDatapath p q) := by
  by_cases h : q.len.toNat = 8
  · exact .ok (latlngDatapath_of_len h)
  · exact .raise (latlngDatapath_of_ne h)

theorem rawfloatDatapath_answers (q : Request) : Answers (rawfloatDatapath q) := by
  by_cases h : q.len.toNat = 4
  · exact .ok (rawfloatDatapath_of_len h)
  · exact .raise (rawfloatDatapath_of_ne h)

theorem bitmapDatapath_answers (q : Request) : Answers (bitmapDatapath q) := by
  by_cases h : q.len.toNat = 1
  · exact .ok (bitmapDatapath_of_len h)
  · exact .raise (bitmapDatapath_of_ne h)

/-- RTCSRC alone has a third way to end: a byte of the right length that names no source (R143). -/
theorem rtcsrcDatapath_answers (q : Request) : Answers (rtcsrcDatapath q) := by
  by_cases h : q.len.toNat = 1
  · by_cases hb : (q.byte 0).toNat ≤ 4
    · exact .ok ((rtcsrcDatapath_of_len h).trans (if_pos hb))
    · exact .raise ((rtcsrcDatapath_of_len h).trans (if_neg hb))
  · exact .raise (rtcsrcDatapath_of_ne h)

theorem datapath_answers (i : Instr) (p : Params) (q : Request) : Answers (datapath i p q) := by
  cases i with
  | uint8 => exact littleEndianInteger_answers (by decide) q
  | uint16 => exact littleEndianInteger_answers (by decide) q
  | uint32 => exact littleEndianInteger_answers (by decide) q
  | uint16be => exact bigEndianInteger_answers (by decide) q
  | uint32be => exact bigEndianInteger_answers (by decide) q
  | uint16fp1 => exact scaledUnsigned16_answers q
  | unixtime => exact littleEndianInteger_answers (by decide) q
  | temperature => exact temperatureDatapath_answers q
  | humidity => exact scaledUnsigned16_answers q
  | latlng => exact latlngDatapath_answers p q
  | rawfloat => exact rawfloatDatapath_answers q
  | bitmap => exact bitmapDatapath_answers q
  | rtcsrc => exact rtcsrcDatapath_answers q
  | reservedD => exact .raise rfl
  | reservedE => exact .raise rfl
  | reservedF => exact .raise rfl

/-- Delivering an answer changes the response ports and nothing else (R155). -/
theorem State.deliver_mapError_raise (s : State) (a : Answer) :
    s.deliver (a.mapError .raise) = .next { s with answer := a } := by
  cases a <;> rfl

theorem exec_of_datapath {i : Instr} {s : State} {a : Answer} (h : datapath i s.params s.request = a.mapError .raise) :
    exec i s = .next { s with answer := a } := by
  rw [exec_eq_deliver, h, State.deliver_mapError_raise]

/-- One transaction on a request the host has just lined up (R10). -/
theorem step_drive_of_datapath {s : State} {q : Request} {a : Answer}
    (h : datapath (decode q.opsel) s.params q = a.mapError .raise) :
    step (s.drive q) = .next { s with request := q, answer := a } := by
  rw [step, State.present_drive]
  exact exec_of_datapath h

/-- Settles O45: the two states enter the datapath through their parameters alone, which agree. -/
theorem responseIgnoresEarlierTransactions : Obligations.ResponseIgnoresEarlierTransactions := by
  intro s t q hparams
  obtain ⟨a, ha⟩ := datapath_answers (decode q.opsel) s.params q
  exact ⟨a, step_drive_of_datapath ha, step_drive_of_datapath (hparams ▸ ha)⟩

end Sys2Proof.Machine

/-! PROOFS. The little-endian value of a list of bytes as a sum and its range (R36): O14. -/

namespace Sys2Proof

/-- R36, the sum: the head weighs 1, and every byte of the tail weighs 2^8 times what it weighs there. -/
theorem ule_eq_sum (bs : List Byte) :
    ule bs = ∑ k ∈ Finset.range bs.length, (bs.getD k 0).toNat * 2 ^ (8 * k) := by
  induction bs with
  | nil => rfl
  | cons b bs ih =>
    have weight (k : Nat) : 2 ^ (8 * (k + 1)) = 2 ^ 8 * 2 ^ (8 * k) := by
      rw [← Nat.pow_add, Nat.mul_add, Nat.add_comm]
    rw [ule_cons, ih, List.length_cons, Finset.sum_range_succ', Finset.mul_sum, Nat.add_comm]
    simp only [List.getD_cons_zero, List.getD_cons_succ, weight, Nat.mul_left_comm, Nat.mul_zero,
      Nat.pow_zero, Nat.mul_one]

/-- R36, the range. -/
theorem ule_lt (bs : List Byte) : ule bs < 2 ^ (8 * bs.length) := by
  induction bs with
  | nil => simp
  | cons b bs ih =>
    have hb : b.toNat < 2 ^ 8 := b.isLt
    rw [ule_cons, List.length_cons, Nat.mul_succ, Nat.pow_add]
    omega

/-- Settles O14: each half is an induction on the list of bytes. -/
theorem littleEndianValueIsTheWeightedSum : Obligations.LittleEndianValueIsTheWeightedSum :=
  fun bs => ⟨ule_eq_sum bs, ule_lt bs⟩

end Sys2Proof

/-! PROOFS. What every operation changes, the answer, and what it leaves unchanged (R35, R155): O41. -/

namespace Sys2Proof.Machine

/-- R155: every operation is answered, and only the answer changes. -/
theorem exec_answers (i : Instr) (s : State) : ∃ a, exec i s = .next { s with answer := a } := by
  obtain ⟨a, ha⟩ := datapath_answers i s.params s.request
  exact ⟨a, exec_of_datapath ha⟩

/-- The next state of an operation differs from the state before in the answer alone. -/
theorem eq_with_answer_of_exec {i : Instr} {s t : State} (h : exec i s = .next t) :
    ∃ a, t = { s with answer := a } := by
  obtain ⟨a, ha⟩ := exec_answers i s
  exact ⟨a, Host.Outcome.next.inj (h.symm.trans ha)⟩

/-- Settles O41: every field the statement names is one that a new answer leaves as it was. -/
theorem frameOfEveryOperation : Obligations.FrameOfEveryOperation := by
  intro i s t h
  obtain ⟨a, rfl⟩ := eq_with_answer_of_exec h
  exact ⟨rfl, rfl, rfl, fun _ => rfl, rfl, rfl⟩

end Sys2Proof.Machine

/-! PROOFS. Instructions and select codes correspond one to one, and the codes up to 12 are the operations (R54): O2. -/

namespace Sys2Proof

theorem decode_encode (i : Instr) : decode (encode i) = i := by
  cases i <;> rfl

/-- R54: decoding is total and no two codes share a row, over the sixteen values of OPSEL. -/
theorem encode_decode : ∀ op : BitVec 4, encode (decode op) = op := by decide

/-- The instructions that are no operation are the three reserved rows (R55). -/
theorem wf_eq_false_iff (i : Instr) : i.wf = false ↔ i = .reservedD ∨ i = .reservedE ∨ i = .reservedF := by
  cases i <;> simp [Instr.wf, width]

open Laws.CodeAndWidth in
theorem codeAndWidth (i : Instr) : Statement i := by
  cases i with
  | uint8 => exact uint8
  | uint16 => exact uint16
  | uint32 => exact uint32
  | uint16be => exact uint16be
  | uint32be => exact uint32be
  | uint16fp1 => exact uint16fp1
  | unixtime => exact unixtime
  | temperature => exact temperature
  | humidity => exact humidity
  | latlng => exact latlng
  | rawfloat => exact rawfloat
  | bitmap => exact bitmap
  | rtcsrc => exact rtcsrc
  | reservedD => exact reservedD
  | reservedE => exact reservedE
  | reservedF => exact reservedF

theorem wf_iff_encode_le (i : Instr) : i.wf = true ↔ (encode i).toNat ≤ 12 := (codeAndWidth i).1

theorem wf_decode_iff (op : BitVec 4) : (decode op).wf = true ↔ op.toNat ≤ 12 := by
  rw [wf_iff_encode_le, encode_decode]

/-- Settles O2: a code above 12 decodes to no operation, so to a reserved row. -/
theorem selectCodesRoundTrip : Obligations.SelectCodesRoundTrip := by
  refine ⟨decode_encode, fun op => ⟨encode_decode op, wf_decode_iff op, fun hop => ?_⟩⟩
  have hwf : ¬ (decode op).wf = true := fun h => absurd ((wf_decode_iff op).1 h) (by omega)
  exact (wf_eq_false_iff _).1 (Bool.eq_false_of_not_eq_true hwf)

end Sys2Proof

/-! PROOFS. The codes that answer IllegalOp: the reserved ones of R55, and the two more of the unit of R56: O34, O53. -/

namespace Sys2Proof.Machine

/-- R55, R151: what is no operation takes IllegalOp with its own code, whatever stands on LEN and the lanes. -/
theorem exec_of_wf_eq_false {i : Instr} (h : i.wf = false) (s : State) :
    exec i s = .next { s with answer := .error (.illegalOp (encode i)) } := by
  obtain rfl | rfl | rfl := (wf_eq_false_iff i).1 h <;> rfl

/-- Settles O34: each of the three rows is no operation, and ST is the status of its fault. -/
theorem reservedCodesFaultIllegalOp : Obligations.ReservedCodesFaultIllegalOp :=
  ⟨rfl, rfl, rfl, fun s =>
    ⟨⟨_, exec_of_wf_eq_false rfl s, rfl, rfl⟩, ⟨_, exec_of_wf_eq_false rfl s, rfl, rfl⟩,
      ⟨_, exec_of_wf_eq_false rfl s, rfl, rfl⟩⟩⟩

/-- R56: apart from its two more reserved codes the unit of the four named blocks is the full one. -/
theorem execFourBlocks_eq_exec {i : Instr} (hbitmap : i ≠ .bitmap) (hrtcsrc : i ≠ .rtcsrc) (s : State) :
    execFourBlocks i s = exec i s := by
  cases i with
  | bitmap => exact absurd rfl hbitmap
  | rtcsrc => exact absurd rfl hrtcsrc
  | _ => rfl

/-- Settles O53: the two codes deliver the fault at once, and every other arm is that of `exec`. -/
theorem fourBlocksUnit : Obligations.FourBlocksUnit :=
  ⟨rfl, rfl, fun s => ⟨s.deliver_raise _, s.deliver_raise _⟩,
    fun _ s hbitmap hrtcsrc => execFourBlocks_eq_exec hbitmap hrtcsrc s⟩

end Sys2Proof.Machine

/-! PROOFS. Which bit patterns of the right length are answered with a result (R58): O38. -/

namespace Sys2Proof.Machine

/-- R58: with LEN the operation's width, every operation but RTCSRC ends in a result, whatever bytes the lanes carry. -/
theorem datapath_ok_of_width {i : Instr} {q : Request} (hi : i ≠ .rtcsrc) (hw : width i = some q.len.toNat) (p : Params) :
    ∃ r, datapath i p q = .ok r := by
  have len {w : Nat} (h : width i = some w) : q.len.toNat = w := Option.some.inj (hw.symm.trans h)
  cases i with
  | uint8 => exact ⟨_, littleEndianInteger_of_len (len rfl) (by decide)⟩
  | uint16 => exact ⟨_, littleEndianInteger_of_len (len rfl) (by decide)⟩
  | uint32 => exact ⟨_, littleEndianInteger_of_len (len rfl) (by decide)⟩
  | uint16be => exact ⟨_, bigEndianInteger_of_len (len rfl) (by decide)⟩
  | uint32be => exact ⟨_, bigEndianInteger_of_len (len rfl) (by decide)⟩
  | uint16fp1 => exact ⟨_, scaledUnsigned16_of_len (len rfl)⟩
  | unixtime => exact ⟨_, littleEndianInteger_of_len (len rfl) (by decide)⟩
  | temperature => exact ⟨_, temperatureDatapath_of_len (len rfl)⟩
  | humidity => exact ⟨_, scaledUnsigned16_of_len (len rfl)⟩
  | latlng => exact ⟨_, latlngDatapath_of_len (len rfl)⟩
  | rawfloat => exact ⟨_, rawfloatDatapath_of_len (len rfl)⟩
  | bitmap => exact ⟨_, bitmapDatapath_of_len (len rfl)⟩
  | rtcsrc => exact absurd rfl hi
  | reservedD => cases hw
  | reservedE => cases hw
  | reservedF => cases hw

theorem exec_ok_of_width {i : Instr} {s : State} (hi : i ≠ .rtcsrc) (hw : width i = some s.request.len.toNat) :
    ∃ r, exec i s = .next { s with answer := .ok r } := by
  obtain ⟨r, hr⟩ := datapath_ok_of_width hi hw s.params
  exact ⟨r, exec_of_datapath hr⟩

/-- The explicit sum of R52 is the little-endian value of its four bytes. -/
theorem operand32_eq_ule (b0 b1 b2 b3 : Byte) : operand32 b0 b1 b2 b3 = ule [b0, b1, b2, b3] := by
  simp only [operand32, ule_cons, ule_nil]
  ring

theorem exec_rawfloat_of_len {s : State} (h : s.request.len.toNat = 4) :
    exec .rawfloat s = .next { s with answer := .ok (floatResponse
      (operand32 (s.request.byte 0) (s.request.byte 1) (s.request.byte 2) (s.request.byte 3))) } := by
  rw [operand32_eq_ule]
  exact exec_of_datapath (rawfloatDatapath_of_len h)

/-- R125: the exponent field 255 raises WARN on the result. -/
theorem floatResponse_warn_of_exponent_255 {p : Nat} (h : floatExponent p = 255) : (floatResponse p).warn = true := by
  simp only [floatResponse, exponentWarning, h, beq_self_eq_true]

theorem exec_rtcsrc_of_le {s : State} (h : s.request.len.toNat = 1) (hb : (s.request.byte 0).toNat ≤ 4) :
    exec .rtcsrc s = .next { s with answer := .ok (Response.number false (s.request.byte 0).toNat) } :=
  exec_of_datapath ((rtcsrcDatapath_of_len h).trans (if_pos hb))

theorem exec_rtcsrc_of_not_le {s : State} (h : s.request.len.toNat = 1) (hb : ¬ (s.request.byte 0).toNat ≤ 4) :
    exec .rtcsrc s = .next { s with answer := .error (.unknownEnumValue (s.request.byte 0)) } :=
  exec_of_datapath ((rtcsrcDatapath_of_len h).trans (if_neg hb))

theorem exec_rtcsrc_ok_iff {s : State} (h : s.request.len.toNat = 1) :
    (∃ r, exec .rtcsrc s = .next { s with answer := .ok r }) ↔ (s.request.byte 0).toNat ≤ 4 := by
  refine ⟨fun ⟨r, hr⟩ => ?_, fun hb => ⟨_, exec_rtcsrc_of_le h hb⟩⟩
  by_contra hb
  have hans := congrArg State.answer (Host.Outcome.next.inj (hr.symm.trans (exec_rtcsrc_of_not_le h hb)))
  cases hans

/-- Settles O38: of the operations only RTCSRC can refuse its bytes, and only a byte that names no source. -/
theorem operationsAreTotalOverTheirData : Obligations.OperationsAreTotalOverTheirData :=
  ⟨fun _ _ _ hi hw => exec_ok_of_width hi hw,
    fun _ h hexp => ⟨_, exec_rawfloat_of_len h, floatResponse_warn_of_exponent_255 hexp⟩,
    fun _ h => ⟨exec_rtcsrc_ok_iff h, exec_rtcsrc_of_not_le h⟩⟩

end Sys2Proof.Machine

/-! PROOFS. The integer unpacker: what each of its six operations answers (R70 to R76): O8 to O13. -/

namespace Sys2Proof

/-- R37, the range. -/
theorem ube_lt (bs : List Byte) : ube bs < 2 ^ (8 * bs.length) := by
  induction bs with
  | nil => simp
  | cons b bs ih =>
    have hb : b.toNat + 1 ≤ 2 ^ 8 := b.isLt
    calc ube (b :: bs) < b.toNat * 2 ^ (8 * bs.length) + 2 ^ (8 * bs.length) := Nat.add_lt_add_left ih _
      _ = (b.toNat + 1) * 2 ^ (8 * bs.length) := (Nat.add_one_mul _ _).symm
      _ ≤ 2 ^ 8 * 2 ^ (8 * bs.length) := Nat.mul_le_mul_right _ hb
      _ = 2 ^ (8 * (b :: bs).length) := by rw [← Nat.pow_add, List.length_cons, Nat.mul_succ, Nat.add_comm]

theorem ube_pair (b0 b1 : Byte) : ube [b0, b1] = 256 * b0.toNat + b1.toNat := by
  simp [Nat.mul_comm]

theorem ube_quad (b0 b1 b2 b3 : Byte) :
    ube [b0, b1, b2, b3] = 2 ^ 24 * b0.toNat + 2 ^ 16 * b1.toNat + 2 ^ 8 * b2.toNat + b3.toNat := by
  simp [Nat.mul_comm, Nat.add_assoc]

namespace Machine

/-- The explicit sum of R52 is the little-endian value of its two bytes. -/
theorem operand16_eq_ule (lo hi : Byte) : operand16 lo hi = ule [lo, hi] := rfl

/-- The image of a request whose slice stands on the lanes: OPSEL and LEN in one byte, then the slice (R51). -/
theorem encodeImage_of_ports {r : Request} {op len : BitVec 4} (hop : r.opsel = op) (hlen : r.len = len)
    (hle : len.toNat ≤ 8) :
    encodeImage r = BitVec.ofNat 8 (op.toNat * 16 + len.toNat) :: (List.range len.toNat).map r.byte := by
  subst hop hlen
  rw [encodeImage, onLanes_of_len rfl hle]

/-- R152: a datapath that stops at its length check answers that fault alone, with ST = 1. -/
theorem exec_of_datapath_invalidFieldLength {i : Instr} {s : State}
    (h : datapath i s.params s.request = .error (.raise (.invalidFieldLength s.request.len))) :
    ∃ t, exec i s = .next t ∧ t.st = 1 ∧ t = { s with answer := .error (.invalidFieldLength s.request.len) } :=
  ⟨_, exec_of_datapath (a := .error _) h, rfl, rfl⟩

/-- R13: a datapath that ends in one number which fits the port answers it on R0, unsigned, and 0 on every other port. -/
theorem exec_of_datapath_number {i : Instr} {s : State} {v : Nat}
    (h : datapath i s.params s.request = .ok (Response.number false v)) (hv : v < 2 ^ 133) :
    ∃ t r, exec i s = .next t ∧ t = { s with answer := .ok r } ∧ t.st = 0 ∧
      r = { Response.zero with r0 := { neg := false, mag := r.r0.mag } } ∧ r.r0.mag.toNat = v :=
  ⟨_, _, exec_of_datapath (a := .ok _) h, rfl, rfl, rfl, Nat.mod_eq_of_lt hv⟩

/-- The common contract of R76: a slice of `w` bytes is answered with the integer `v` alone, any other with the length
fault. `answersInteger_of_littleEndian` and `answersInteger_of_bigEndian` tie it to the datapaths. -/
def AnswersInteger (i : Instr) (w : Nat) (v : Request → Nat) : Prop :=
  ∀ s : State,
    (s.request.len.toNat ≠ w → ∃ t, exec i s = .next t ∧ t.st = 1 ∧
      t = { s with answer := .error (.invalidFieldLength s.request.len) }) ∧
    (s.request.len.toNat = w → ∃ t r, exec i s = .next t ∧ t = { s with answer := .ok r } ∧ t.st = 0 ∧
      r = { Response.zero with r0 := { neg := false, mag := r.r0.mag } } ∧ r.r0.mag.toNat = v s.request)

theorem answersInteger_of_datapath {i : Instr} {w : Nat} {v : Request → Nat} (hw : w ≤ 8)
    (hne : ∀ p q, q.len.toNat ≠ w → datapath i p q = .error (.raise (.invalidFieldLength q.len)))
    (hlen : ∀ p q, q.len.toNat = w → datapath i p q = .ok (Response.number false (v q)))
    (hv : ∀ q, v q < 2 ^ (8 * w)) : AnswersInteger i w v := by
  have hport : 2 ^ (8 * w) ≤ 2 ^ 133 := Nat.pow_le_pow_right (by decide) (by omega)
  exact fun s => ⟨fun h => exec_of_datapath_invalidFieldLength (hne _ _ h),
    fun h => exec_of_datapath_number (hlen _ _ h) ((hv _).trans_le hport)⟩

theorem answersInteger_of_littleEndian {i : Instr} {w : Nat} (hw : w ≤ 8)
    (hi : ∀ p q, datapath i p q = littleEndianInteger w q) :
    AnswersInteger i w fun q => ule ((List.range w).map q.byte) :=
  answersInteger_of_datapath hw (fun p q h => (hi p q).trans (littleEndianInteger_of_ne h))
    (fun p q h => (hi p q).trans (littleEndianInteger_of_len h hw)) fun q => by
      simpa using ule_lt ((List.range w).map q.byte)

theorem answersInteger_of_bigEndian {i : Instr} {w : Nat} (hw : w ≤ 8)
    (hi : ∀ p q, datapath i p q = bigEndianInteger w q) :
    AnswersInteger i w fun q => ube ((List.range w).map q.byte) :=
  answersInteger_of_datapath hw (fun p q h => (hi p q).trans (bigEndianInteger_of_ne h))
    (fun p q h => (hi p q).trans (bigEndianInteger_of_len h hw)) fun q => by
      simpa using ube_lt ((List.range w).map q.byte)

/-! The integer each operation answers, as the sum its rule writes out. -/

theorem uint8_answersInteger : AnswersInteger .uint8 1 fun q => (q.byte 0).toNat :=
  answersInteger_of_littleEndian (by decide) fun _ _ => rfl

theorem uint16_answersInteger : AnswersInteger .uint16 2 fun q => operand16 (q.byte 0) (q.byte 1) := by
  simp only [operand16_eq_ule]
  exact answersInteger_of_littleEndian (by decide) fun _ _ => rfl

theorem uint32_answersInteger :
    AnswersInteger .uint32 4 fun q => operand32 (q.byte 0) (q.byte 1) (q.byte 2) (q.byte 3) := by
  simp only [operand32_eq_ule]
  exact answersInteger_of_littleEndian (by decide) fun _ _ => rfl

theorem uint16be_answersInteger :
    AnswersInteger .uint16be 2 fun q => 256 * (q.byte 0).toNat + (q.byte 1).toNat := by
  simp only [← ube_pair]
  exact answersInteger_of_bigEndian (by decide) fun _ _ => rfl

theorem uint32be_answersInteger :
    AnswersInteger .uint32be 4 fun q =>
      2 ^ 24 * (q.byte 0).toNat + 2 ^ 16 * (q.byte 1).toNat + 2 ^ 8 * (q.byte 2).toNat + (q.byte 3).toNat := by
  simp only [← ube_quad]
  exact answersInteger_of_bigEndian (by decide) fun _ _ => rfl

/-- R75: the raw seconds are read as UINT32 reads its slice. -/
theorem exec_unixtime_eq_exec_uint32 (s : State) : exec .unixtime s = exec .uint32 s := rfl

/-- Settles O8: the little-endian value of one byte is the byte. -/
theorem uint8Result : Obligations.Uint8Result :=
  ⟨rfl, rfl, rfl, fun _ hop hlen => encodeImage_of_ports hop hlen (by decide), uint8_answersInteger⟩

/-- Settles O9: the little-endian value of two bytes is the operand of R52. -/
theorem uint16Result : Obligations.Uint16Result :=
  ⟨rfl, rfl, rfl, fun _ hop hlen => encodeImage_of_ports hop hlen (by decide), uint16_answersInteger⟩

/-- Settles O10: the little-endian value of four bytes is the operand of R52. -/
theorem uint32Result : Obligations.Uint32Result :=
  ⟨rfl, rfl, rfl, fun _ hop hlen => encodeImage_of_ports hop hlen (by decide), uint32_answersInteger⟩

/-- Settles O11: the big-endian value of two bytes has byte 0 as its high byte. -/
theorem uint16beResult : Obligations.Uint16beResult :=
  ⟨rfl, rfl, rfl, fun _ hop hlen => encodeImage_of_ports hop hlen (by decide), uint16be_answersInteger⟩

/-- Settles O12: the big-endian value of four bytes has byte 0 as its high byte. -/
theorem uint32beResult : Obligations.Uint32beResult :=
  ⟨rfl, rfl, rfl, fun _ hop hlen => encodeImage_of_ports hop hlen (by decide), uint32be_answersInteger⟩

/-- Settles O13: UNIXTIME runs as UINT32 on every state, so UINT32's contract is its own. -/
theorem unixtimeResult : Obligations.UnixtimeResult := by
  refine ⟨rfl, rfl, rfl, fun _ hop hlen => encodeImage_of_ports hop hlen (by decide), fun s => ?_⟩
  obtain ⟨hne, heq⟩ := uint32_answersInteger s
  exact ⟨hne, heq, exec_unixtime_eq_exec_uint32 s⟩

end Machine

end Sys2Proof

/-! PROOFS. The fixed-point scaler: UINT16FP1 and HUMIDITY return their count, and TEMPERATURE rounds a signed one to
tenths (R90 to R96): O17, O18, O20, O21. -/

namespace Sys2Proof

/-- R94: the top bit of a pattern is the sign of its signed reading. -/
theorem bit_eq_decide_sext_neg {n v : Nat} (h : v < 2 ^ (n + 1)) : bit v n = decide (sext (n + 1) v < 0) := by
  rw [bit_eq_decide h, decide_eq_decide, sext, Nat.add_sub_cancel]
  split
  case isTrue hv => exact ⟨fun hle => absurd hv hle.not_gt, fun hneg => absurd hneg (Int.natCast_nonneg v).not_gt⟩
  case isFalse hv => exact ⟨fun _ => sub_neg.2 (by exact_mod_cast h), fun _ => Nat.le_of_not_lt hv⟩

/-- The explicit sum of R52 is the big-endian value of its two bytes, the high one first. -/
theorem operand16_eq_ube (lo hi : Byte) : Machine.operand16 lo hi = ube [hi, lo] := by
  rw [ube_pair, Machine.operand16, Nat.add_comm]

/-- The big-endian value of the two bytes of a 16-bit pattern is the pattern. -/
theorem ube_extractLsb' (x : BitVec 16) : ube [x.extractLsb' 8 8, x.extractLsb' 0 8] = x.toNat := by
  rw [ube_pair, BitVec.extractLsb'_toNat, BitVec.extractLsb'_toNat, Nat.shiftRight_eq_div_pow]
  omega

/-- The sign bit of a big-endian pair is that of its first byte (R92, R93). -/
theorem bit_ube_pair (b0 b1 : Byte) : bit (ube [b0, b1]) 15 = b0.getLsbD 7 := by
  have hb1 : b1.toNat < 2 ^ 8 := b1.isLt
  have hhigh : 2 ^ 15 ≤ 256 * b0.toNat + b1.toNat ↔ 2 ^ 7 ≤ b0.toNat := by omega
  calc bit (ube [b0, b1]) 15 = decide (2 ^ 15 ≤ ube [b0, b1]) := bit_eq_decide (ube_lt [b0, b1])
    _ = decide (2 ^ 7 ≤ b0.toNat) := by rw [ube_pair, decide_eq_decide.2 hhigh]
    _ = b0.msb := (BitVec.msb_eq_decide b0).symm
    _ = b0.getLsbD 7 := BitVec.msb_eq_getLsbD_last b0

namespace Machine

/-! ### UINT16FP1 and HUMIDITY: the count as it is -/

theorem answersInteger_of_scaledUnsigned16 {i : Instr} (hi : ∀ p q, datapath i p q = scaledUnsigned16 q) :
    AnswersInteger i 2 fun q => operand16 (q.byte 0) (q.byte 1) :=
  answersInteger_of_datapath (by decide) (fun p q h => (hi p q).trans (scaledUnsigned16_of_ne h))
    (fun p q h => (hi p q).trans (scaledUnsigned16_of_len h)) fun q => ule_lt [q.byte 0, q.byte 1]

theorem uint16fp1_answersInteger : AnswersInteger .uint16fp1 2 fun q => operand16 (q.byte 0) (q.byte 1) :=
  answersInteger_of_scaledUnsigned16 fun _ _ => rfl

theorem humidity_answersInteger : AnswersInteger .humidity 2 fun q => operand16 (q.byte 0) (q.byte 1) :=
  answersInteger_of_scaledUnsigned16 fun _ _ => rfl

/-- R14 for a result that is not negative. -/
theorem Decimal.value_of_not_neg {w : Nat} {d : Decimal w} (h : d.neg = false) (dp : Nat) :
    d.value dp = (d.mag.toNat : ℚ) / 10 ^ dp := by
  simp [Decimal.value, h]

/-- Settles O17: an unsigned count of tenths, read with one decimal place. -/
theorem uint16fp1Result : Obligations.Uint16fp1Result := by
  refine ⟨rfl, rfl, rfl, fun _ hop hlen => encodeImage_of_ports hop hlen (by decide), fun s => ?_⟩
  obtain ⟨hne, heq⟩ := uint16fp1_answersInteger s
  refine ⟨hne, fun h => ?_⟩
  obtain ⟨t, r, hexec, ht, hst, hr, hmag⟩ := heq h
  have hneg : r.r0.neg = false := congrArg (·.r0.neg) hr
  refine ⟨t, r, hexec, ht, hst, hr, hmag, ?_, ?_⟩
  · rw [Decimal.value_of_not_neg hneg, hmag, pow_one]
  · rw [resultText, hneg, hmag]

/-- Settles O21: an unsigned count of hundredths, read with two decimal places. -/
theorem humidityResult : Obligations.HumidityResult := by
  refine ⟨rfl, rfl, rfl, fun _ hop hlen => encodeImage_of_ports hop hlen (by decide), fun s => ?_⟩
  obtain ⟨hne, heq⟩ := humidity_answersInteger s
  refine ⟨hne, fun h => ?_⟩
  obtain ⟨t, r, hexec, ht, hst, hr, hmag⟩ := heq h
  have hneg : r.r0.neg = false := congrArg (·.r0.neg) hr
  refine ⟨t, r, hexec, ht, hst, hr, hmag, ?_, rfl⟩
  rw [Decimal.value_of_not_neg hneg, hmag]
  norm_num

/-! ### TEMPERATURE: the magnitude of the pattern (R94) -/

theorem magnitude16_eq_ite {x : Nat} (h : x < 2 ^ 16) : magnitude16 x = if 2 ^ 15 ≤ x then 2 ^ 16 - x else x := by
  simp only [magnitude16, bit_eq_decide h, decide_eq_true_eq]
  split
  · exact negN_eq_sub (by omega) h
  · rfl

theorem magnitude16_le {x : Nat} (h : x < 2 ^ 16) : magnitude16 x ≤ 32768 := by
  rw [magnitude16_eq_ite h]
  split <;> omega

theorem magnitude16_eq_natAbs_sext {x : Nat} (h : x < 2 ^ 16) : magnitude16 x = (sext 16 x).natAbs := by
  rw [magnitude16_eq_ite h, sext]
  split <;> split <;> omega

/-! ### TEMPERATURE: hundredths to tenths (R95) -/

theorem hundredthsToTenths_error (m : Nat) : |(hundredthsToTenths m : ℚ) / 10 - (m : ℚ) / 100| ≤ 1 / 20 := by
  have hlow : 10 * hundredthsToTenths m ≤ m + 5 := Nat.mul_div_le (m + 5) 10
  have hhigh : m ≤ 10 * hundredthsToTenths m + 5 := by unfold hundredthsToTenths; omega
  have hlow' : 10 * (hundredthsToTenths m : ℚ) ≤ m + 5 := by exact_mod_cast hlow
  have hhigh' : (m : ℚ) ≤ 10 * hundredthsToTenths m + 5 := by exact_mod_cast hhigh
  rw [abs_le]
  constructor <;> linarith

theorem hundredthsToTenths_of_tie {m : Nat} (h : m % 10 = 5) : 10 * hundredthsToTenths m = m + 5 := by
  unfold hundredthsToTenths
  omega

/-- R92, the range of the tenths, reached by the minimum pattern. -/
theorem hundredthsToTenths_magnitude16_le {x : Nat} (h : x < 2 ^ 16) : hundredthsToTenths (magnitude16 x) ≤ 3277 := by
  have := magnitude16_le h
  unfold hundredthsToTenths
  omega

/-- With the sign of `y` on NEG, the distance of the result from `y` is that of the magnitudes. -/
theorem Decimal.abs_value_sub {w : Nat} {d : Decimal w} {y : Int} (h : d.neg = decide (y < 0)) (dp : Nat) (q : ℚ) :
    |d.value dp - (y : ℚ) / q| = |(d.mag.toNat : ℚ) / 10 ^ dp - (y.natAbs : ℚ) / q| := by
  rw [Decimal.value, h]
  by_cases hy : y < 0
  · have habs : (y.natAbs : ℚ) = -y := by
      rw [Nat.cast_natAbs, abs_of_neg hy, Int.cast_neg]
    rw [habs, ← abs_neg]
    simp only [hy, decide_true, if_true]
    congr 1
    ring
  · have habs : (y.natAbs : ℚ) = y := by
      rw [Nat.cast_natAbs, abs_of_nonneg (not_lt.1 hy)]
    simp [hy, habs]

/-! ### TEMPERATURE: its result -/

/-- The result for a 16-bit pattern; `exec_temperature_of_len` ties it to `exec`. -/
def temperatureResponse (x : Nat) : Response := Response.number (bit x 15) (hundredthsToTenths (magnitude16 x))

theorem exec_temperature_of_len {s : State} (h : s.request.len.toNat = 2) :
    exec .temperature s =
      .next { s with answer := .ok (temperatureResponse (ube [s.request.byte 0, s.request.byte 1])) } :=
  exec_of_datapath (temperatureDatapath_of_len h)

/-- The same for the two bytes a host presents as the slice (R12). -/
theorem exec_temperature_ofSlice {s : State} {op : BitVec 4} {b0 b1 : Byte}
    (h : s.request = Request.ofSlice op [b0, b1]) :
    exec .temperature s = .next { s with answer := .ok (temperatureResponse (ube [b0, b1])) } := by
  have h0 : s.request.byte 0 = b0 := h ▸ Memory.read_ofBytes 0 [b0, b1]
  have h1 : s.request.byte 1 = b1 := h ▸ Memory.read_ofBytes 1 [b0, b1]
  rw [exec_temperature_of_len (h ▸ rfl), h0, h1]

theorem temperatureResponse_mag {x : Nat} (h : x < 2 ^ 16) :
    (temperatureResponse x).r0.mag.toNat = hundredthsToTenths (magnitude16 x) :=
  Nat.mod_eq_of_lt ((hundredthsToTenths_magnitude16_le h).trans_lt (by decide))

/-- Settles O18: the pattern is the big-endian value of the slice, so its sign bit is that of byte 0. -/
theorem temperatureResult : Obligations.TemperatureResult := by
  refine ⟨rfl, rfl, rfl, fun _ hop hlen => encodeImage_of_ports hop hlen (by decide), ?_⟩
  rintro s x rfl
  rw [← ube_pair]
  have hx := ube_lt [s.request.byte 0, s.request.byte 1]
  have hmag := temperatureResponse_mag hx
  refine ⟨fun h => exec_of_datapath_invalidFieldLength (temperatureDatapath_of_ne h), fun h =>
    ⟨_, _, exec_temperature_of_len h, rfl, rfl, rfl, bit_ube_pair _ _, ?_, ?_, rfl⟩⟩
  · rw [hmag, magnitude16_eq_ite hx, hundredthsToTenths]
  · rw [hmag]
    exact hundredthsToTenths_magnitude16_le hx

/-- R95: a negative pattern less than half a tenth from zero keeps its sign at magnitude 0. -/
theorem temperatureResponse_of_negative_zero {x : Nat} (hlow : 0xFFFC ≤ x) (h : x < 2 ^ 16) :
    temperatureResponse x = Response.number true 0 := by
  have hbit : bit x 15 = true := by rw [bit_eq_decide h]; exact decide_eq_true (by omega)
  have hmag : hundredthsToTenths (magnitude16 x) = 0 := by
    rw [magnitude16_eq_ite h, if_pos (by omega), hundredthsToTenths]
    omega
  rw [temperatureResponse, hbit, hmag]

/-- Settles O20: the sign bit is the sign of the signed reading, so the error is that of rounding its magnitude. -/
theorem temperatureRoundsToNearestTenth : Obligations.TemperatureRoundsToNearestTenth := by
  refine ⟨fun s hlen => ⟨_, exec_temperature_of_len hlen, ?_⟩, fun s x hlow => ?_⟩
  · rw [operand16_eq_ube]
    have hx := ube_lt [s.request.byte 0, s.request.byte 1]
    generalize ube [s.request.byte 0, s.request.byte 1] = x at hx ⊢
    have hneg : (temperatureResponse x).r0.neg = decide (sext 16 x < 0) := bit_eq_decide_sext_neg hx
    rw [Decimal.abs_value_sub hneg, temperatureResponse_mag hx, ← magnitude16_eq_natAbs_sext hx, pow_one]
    exact ⟨hneg, hundredthsToTenths_error _, hundredthsToTenths_of_tie⟩
  · refine ⟨Response.number true 0, ?_, rfl, by decide⟩
    rw [← temperatureResponse_of_negative_zero hlow x.isLt, ← ube_extractLsb' x]
    exact exec_temperature_ofSlice rfl

end Machine

end Sys2Proof

/-! PROOFS. The coordinate pair decoder: what LATLNG answers, and that its two lanes are one function each of its own four
bytes (R110 to R112): O22, O25. -/

namespace Sys2Proof.Machine

/-! ### One coordinate (R110, R111) -/

theorem coordNeg_signed {p : Nat} (h : p < 2 ^ 32) : coordNeg true p = decide (2 ^ 31 ≤ p) := by
  rw [coordNeg, Bool.true_and, bit_eq_decide h]

theorem coordMag_signed {p : Nat} (h : p < 2 ^ 32) : coordMag true p = if 2 ^ 31 ≤ p then 2 ^ 32 - p else p := by
  simp only [coordMag, coordNeg_signed h, decide_eq_true_eq]
  split
  · exact negN_eq_sub (by omega) h
  · rfl

/-- Either reading of a 32-bit pattern fits the narrower port, R1. -/
theorem coordMag_lt {signed : Bool} {p : Nat} (h : p < 2 ^ 32) : coordMag signed p < 2 ^ 32 := by
  cases signed with
  | false => exact h
  | true =>
    rw [coordMag_signed h]
    split <;> omega

/-! ### The pair (R110, R112) -/

theorem coordinatePair_r0_mag {signed : Bool} {lat : Nat} (h : lat < 2 ^ 32) (lng : Nat) :
    (coordinatePair signed lat lng).r0.mag.toNat = coordMag signed lat :=
  Nat.mod_eq_of_lt ((coordMag_lt h).trans (by decide))

theorem coordinatePair_r1_mag {signed : Bool} {lng : Nat} (h : lng < 2 ^ 32) (lat : Nat) :
    (coordinatePair signed lat lng).r1.mag.toNat = coordMag signed lng :=
  Nat.mod_eq_of_lt (coordMag_lt h)

/-- The longitude does not reach R0. -/
theorem coordinatePair_r0_congr {signed : Bool} {lat lat' : Nat} (h : lat = lat') (lng lng' : Nat) :
    (coordinatePair signed lat lng).r0 = (coordinatePair signed lat' lng').r0 := by
  subst h; rfl

/-- The latitude does not reach R1. -/
theorem coordinatePair_r1_congr {signed : Bool} {lng lng' : Nat} (h : lng = lng') (lat lat' : Nat) :
    (coordinatePair signed lat lng).r1 = (coordinatePair signed lat' lng').r1 := by
  subst h; rfl

/-- One pattern gives the same sign and magnitude as latitude and as longitude. -/
theorem coordinatePair_r0_eq_r1 {signed : Bool} {lat lng' : Nat} (h : lat = lng') (hlt : lat < 2 ^ 32) (lng lat' : Nat) :
    (coordinatePair signed lat lng).r0.neg = (coordinatePair signed lat' lng').r1.neg ∧
      (coordinatePair signed lat lng).r0.mag.toNat = (coordinatePair signed lat' lng').r1.mag.toNat := by
  subst h
  exact ⟨rfl, (coordinatePair_r0_mag hlt lng).trans (coordinatePair_r1_mag hlt lat').symm⟩

/-! ### The operands and the instruction -/

theorem operand32_lt (b0 b1 b2 b3 : Byte) : operand32 b0 b1 b2 b3 < 2 ^ 32 := by
  rw [operand32_eq_ule]
  exact ule_lt [b0, b1, b2, b3]

theorem operand32_congr {f g : Nat → Byte} (h : ∀ k, k < 4 → f k = g k) :
    operand32 (f 0) (f 1) (f 2) (f 3) = operand32 (g 0) (g 1) (g 2) (g 3) := by
  rw [h 0 (by decide), h 1 (by decide), h 2 (by decide), h 3 (by decide)]

theorem exec_latlng_of_len {s : State} (h : s.request.len.toNat = 8) :
    exec .latlng s = .next { s with answer := .ok (coordinatePair s.params.latlngSigned
      (operand32 (s.request.byte 0) (s.request.byte 1) (s.request.byte 2) (s.request.byte 3))
      (operand32 (s.request.byte 4) (s.request.byte 5) (s.request.byte 6) (s.request.byte 7))) } := by
  rw [operand32_eq_ule, operand32_eq_ule]
  exact exec_of_datapath (latlngDatapath_of_len h)

/-- Settles O25: each result is a function of its own operand, and each operand of its own four bytes. -/
theorem coordinateLanesAreIndependent : Obligations.CoordinateLanesAreIndependent := by
  intro s t hparams hs ht
  refine ⟨_, _, exec_latlng_of_len hs, exec_latlng_of_len ht, ?_⟩
  rw [hparams]
  exact ⟨fun h => coordinatePair_r0_congr (operand32_congr h) _ _,
    fun h => coordinatePair_r1_congr (operand32_congr h) _ _,
    fun h => coordinatePair_r0_eq_r1 (operand32_congr h) (operand32_lt _ _ _ _) _ _⟩

/-- Settles O22: both operands are 32-bit patterns, so each mode of `coord` reads them as R110 writes it. -/
theorem latlngResult : Obligations.LatlngResult := by
  refine ⟨rfl, rfl, rfl, fun _ hop hlen => encodeImage_of_ports hop hlen (by decide), ?_⟩
  intro s lat lng hlat hlng
  have hlat_lt : lat < 2 ^ 32 := hlat ▸ operand32_lt _ _ _ _
  have hlng_lt : lng < 2 ^ 32 := hlng ▸ operand32_lt _ _ _ _
  refine ⟨fun h => exec_of_datapath_invalidFieldLength (latlngDatapath_of_ne h), fun h =>
    ⟨_, coordinatePair s.params.latlngSigned lat lng, ?_, rfl, rfl, rfl, fun hsigned => ?_, fun hunsigned => ?_, rfl⟩⟩
  · rw [exec_latlng_of_len h, hlat, hlng]
  · rw [hsigned, coordinatePair_r0_mag hlat_lt, coordinatePair_r1_mag hlng_lt]
    exact ⟨coordNeg_signed hlat_lt, coordMag_signed hlat_lt, coordNeg_signed hlng_lt, coordMag_signed hlng_lt⟩
  · rw [hunsigned, coordinatePair_r0_mag hlat_lt, coordinatePair_r1_mag hlng_lt]
    exact ⟨rfl, rfl, rfl, rfl⟩

end Sys2Proof.Machine

/-! PROOFS. The float reconstructor: the ports of RAWFLOAT hold its fields and tenths whole, and the tenths are ten times the
value rounded to the nearest integer (R120 to R125): O28, O30. -/

namespace Sys2Proof.Machine

/-! ### Rounding to tenths (R124) -/

theorem floatTenths_of_ge {fe : Nat} (h : 150 ≤ fe) (fsig : Nat) :
    floatTenths fe fsig = 10 * fsig * 2 ^ (fe - 150) := if_pos h

theorem floatTenths_of_lt {fe : Nat} (h : fe < 150) (fsig : Nat) :
    floatTenths fe fsig = (10 * fsig + 2 ^ (149 - fe)) / (2 * 2 ^ (149 - fe)) := by
  have hexp : 150 - fe = 149 - fe + 1 := by omega
  rw [floatTenths, if_neg h.not_ge, hexp, Nat.pow_succ']

/-- R124: at no exponent field do the tenths outgrow R0. -/
theorem floatTenths_lt_port {fe fsig : Nat} (hfe : fe < 256) (hfsig : fsig < 2 ^ 24) : floatTenths fe fsig < 2 ^ 133 := by
  by_cases h : 150 ≤ fe
  · rw [floatTenths_of_ge h]
    calc 10 * fsig * 2 ^ (fe - 150) ≤ 10 * 2 ^ 24 * 2 ^ 105 :=
          Nat.mul_le_mul (by omega) (Nat.pow_le_pow_right (by decide) (by omega))
      _ < 2 ^ 133 := by decide
  · rw [floatTenths_of_lt (not_le.1 h)]
    have hpos : 0 < 2 ^ (149 - fe) := Nat.two_pow_pos _
    exact Nat.div_lt_of_lt_mul (by omega)

/-- From exponent field 150 on the value of R123 is an integer, and its tenths are exact. -/
theorem cast_floatTenths_of_ge {fe : Nat} (h : 150 ≤ fe) (fsig : Nat) :
    (floatTenths fe fsig : ℚ) = 10 * (fsig * 2 ^ ((fe : ℤ) - 150)) := by
  have hexp : (fe : ℤ) - 150 = (fe - 150 : ℕ) := by omega
  rw [floatTenths_of_ge h, hexp, zpow_natCast]
  push_cast
  ring

/-- Adding half the divisor before dividing rounds to the nearest integer, a tie going up. -/
theorem add_half_div_nearest (n : Nat) {d : Nat} (hd : 0 < d) :
    (((n + d) / (2 * d) : ℕ) : ℚ) - 1 / 2 ≤ n / (2 * d) ∧ (n : ℚ) / (2 * d) < ((n + d) / (2 * d) : ℕ) + 1 / 2 := by
  have hlow : 2 * d * ((n + d) / (2 * d)) ≤ n + d := Nat.mul_div_le _ _
  have hhigh : n + d < 2 * d * ((n + d) / (2 * d) + 1) := Nat.lt_mul_div_succ _ (by omega)
  generalize (n + d) / (2 * d) = t at hlow hhigh ⊢
  have hlow' : (2 * d * t : ℚ) ≤ n + d := by exact_mod_cast hlow
  have hhigh' : (n + d : ℚ) < 2 * d * (t + 1) := by exact_mod_cast hhigh
  have hd' : (0 : ℚ) < 2 * d := by positivity
  rw [le_div_iff₀ hd', div_lt_iff₀ hd']
  constructor <;> linarith

/-- R124: the tenths are the integer nearest to ten times the magnitude of the value of R123, a tie going up. -/
theorem floatTenths_nearest (fe fsig : Nat) :
    (floatTenths fe fsig : ℚ) - 1 / 2 ≤ 10 * (fsig * 2 ^ ((fe : ℤ) - 150)) ∧
      10 * (fsig * 2 ^ ((fe : ℤ) - 150)) < (floatTenths fe fsig : ℚ) + 1 / 2 := by
  by_cases h : 150 ≤ fe
  · rw [cast_floatTenths_of_ge h]
    constructor <;> linarith
  · have hexp : (fe : ℤ) - 150 = -((149 - fe + 1 : ℕ) : ℤ) := by omega
    have hvalue : (10 * (fsig * 2 ^ ((fe : ℤ) - 150)) : ℚ) =
        ((10 * fsig : ℕ) : ℚ) / (2 * ((2 ^ (149 - fe) : ℕ) : ℚ)) := by
      rw [hexp, zpow_neg, zpow_natCast, pow_succ']
      push_cast
      ring
    rw [hvalue, floatTenths_of_lt (not_le.1 h)]
    exact add_half_div_nearest _ (Nat.two_pow_pos _)

/-! ### The ports of the result (R121, R122) -/

theorem floatExponent_eq (p : Nat) : floatExponent p = p / 2 ^ 23 % 2 ^ 8 := rfl

theorem floatFraction_eq (p : Nat) : floatFraction p = p % 2 ^ 23 := by
  rw [floatFraction, bits, Nat.pow_zero, Nat.div_one]

theorem floatSignificand_eq (p : Nat) :
    floatSignificand p = if floatExponent p = 0 then p % 2 ^ 23 else p % 2 ^ 23 + 2 ^ 23 := by
  rw [floatSignificand, floatFraction_eq]

theorem floatResponse_fe (p : Nat) : (floatResponse p).fe.toNat = floatExponent p :=
  Nat.mod_eq_of_lt (floatExponent_lt p)

theorem floatResponse_fsig (p : Nat) : (floatResponse p).fsig.toNat = floatSignificand p :=
  Nat.mod_eq_of_lt (floatSignificand_lt p)

theorem floatResponse_mag (p : Nat) :
    (floatResponse p).r0.mag.toNat = floatTenths (floatExponent p) (floatSignificand p) :=
  Nat.mod_eq_of_lt (floatTenths_lt_port (floatExponent_lt p) (floatSignificand_lt p))

theorem Response.zero_flags : ∀ k : Fin 8, Response.zero.flags[k] = false := by decide

/-- The sign bit of a little-endian pattern is that of its last byte (R121). -/
theorem floatSign_operand32 (b0 b1 b2 b3 : Byte) : floatSign (operand32 b0 b1 b2 b3) = b3.getLsbD 7 := by
  have hb0 : b0.toNat < 2 ^ 8 := b0.isLt
  have hb1 : b1.toNat < 2 ^ 8 := b1.isLt
  have hb2 : b2.toNat < 2 ^ 8 := b2.isLt
  have hhigh : 2 ^ 31 ≤ operand32 b0 b1 b2 b3 ↔ 2 ^ 7 ≤ b3.toNat := by unfold operand32; omega
  calc floatSign (operand32 b0 b1 b2 b3) = decide (2 ^ 31 ≤ operand32 b0 b1 b2 b3) := bit_eq_decide (operand32_lt _ _ _ _)
    _ = decide (2 ^ 7 ≤ b3.toNat) := decide_eq_decide.2 hhigh
    _ = b3.msb := (BitVec.msb_eq_decide b3).symm
    _ = b3.getLsbD 7 := BitVec.msb_eq_getLsbD_last b3

/-! ### The instruction -/

/-- Settles O30: the ports hold the fields and the tenths whole, so the claim is that of the tenths. -/
theorem floatRoundsToNearestTenth : Obligations.FloatRoundsToNearestTenth := by
  intro s hlen
  refine ⟨_, exec_rawfloat_of_len hlen, rfl, ?_⟩
  rw [floatResponse_mag, floatResponse_fe, floatResponse_fsig]
  exact floatTenths_nearest _ _

/-- Settles O28: each port of the answer holds its field of the pattern whole. -/
theorem rawfloatResult : Obligations.RawfloatResult := by
  refine ⟨rfl, rfl, rfl, fun _ hop hlen => encodeImage_of_ports hop hlen (by decide), ?_⟩
  rintro s p fe fsig hp rfl rfl
  rw [← floatExponent_eq, ← floatSignificand_eq]
  refine ⟨fun h => exec_of_datapath_invalidFieldLength (rawfloatDatapath_of_ne h), fun h =>
    ⟨_, floatResponse p, ?_, rfl, rfl, rfl, Response.zero_flags, ?_, floatResponse_fe p, floatResponse_fsig p, rfl,
      floatResponse_mag p, rfl, rfl⟩⟩
  · rw [exec_rawfloat_of_len h, hp]
  · rw [hp]
    exact floatSign_operand32 _ _ _ _

end Sys2Proof.Machine

/-! PROOFS. The flag unpacker and the enumeration check: what BITMAP and RTCSRC answer (R140 to R143): O32, O33. -/

namespace Sys2Proof

/-- The model's bit of a value is the library's. -/
theorem bit_eq_testBit (v k : Nat) : bit v k = v.testBit k :=
  Nat.testBit_eq_decide_div_mod_eq.symm

/-- R142, R143: a code above 4 names no source. -/
theorem rtcSource_of_gt : ∀ {c : Nat}, 4 < c → rtcSource c = none
  | _ + 5, _ => rfl

namespace Machine

/-- R141: the flags are the bits of the value, the highest first. -/
theorem flagsOf_getElem (v : Nat) : ∀ k : Fin 8, (flagsOf v)[k] = bit v (7 - k.val)
  | 0 | 1 | 2 | 3 | 4 | 5 | 6 | 7 => rfl

theorem exec_bitmap_of_len {s : State} (h : s.request.len.toNat = 1) :
    exec .bitmap s =
      .next { s with answer := .ok { Response.zero with flags := flagsOf (s.request.byte 0).toNat } } :=
  exec_of_datapath (bitmapDatapath_of_len h)

/-- Settles O32: flag k is bit 7-k of the byte's value, which is the byte's own bit. -/
theorem bitmapResult : Obligations.BitmapResult := by
  refine ⟨rfl, rfl, rfl, fun _ hop hlen => encodeImage_of_ports hop hlen (by decide), fun s =>
    ⟨fun h => exec_of_datapath_invalidFieldLength (bitmapDatapath_of_ne h), fun h =>
      ⟨_, _, exec_bitmap_of_len h, rfl, rfl, rfl, fun k => ?_⟩⟩⟩
  exact (flagsOf_getElem _ k).trans (bit_eq_testBit _ _)

/-- Settles O33: with the right length the byte is compared with 4, and it fits R0. -/
theorem rtcsrcResult : Obligations.RtcsrcResult := by
  refine ⟨rfl, rfl, rfl, ⟨rfl, rfl, rfl, rfl, rfl, fun _ => rtcSource_of_gt⟩,
    fun _ hop hlen => encodeImage_of_ports hop hlen (by decide), fun s => ⟨fun h => ?_, fun h hb => ?_, fun h hb => ?_⟩⟩
  · exact exec_of_datapath_invalidFieldLength (rtcsrcDatapath_of_ne h)
  · exact exec_of_datapath_number ((rtcsrcDatapath_of_len h).trans (if_pos hb)) (by omega)
  · exact ⟨_, exec_rtcsrc_of_not_le h hb.not_ge, rfl, rfl⟩

end Machine

end Sys2Proof

/-! PROOFS. The three faults: what causes each, and the order in which they are reported (R150 to R154): O35, O36, O37. -/

namespace Sys2Proof.Machine

/-- R152: every operation stops at its length check when LEN is not its width. -/
theorem datapath_of_width_ne {i : Instr} {w : Nat} {q : Request} (hw : width i = some w) (hne : q.len.toNat ≠ w)
    (p : Params) : datapath i p q = .error (.raise (.invalidFieldLength q.len)) := by
  have ne {v : Nat} (h : width i = some v) : q.len.toNat ≠ v := Option.some.inj (hw.symm.trans h) ▸ hne
  cases i with
  | uint8 => exact littleEndianInteger_of_ne (ne rfl)
  | uint16 => exact littleEndianInteger_of_ne (ne rfl)
  | uint32 => exact littleEndianInteger_of_ne (ne rfl)
  | uint16be => exact bigEndianInteger_of_ne (ne rfl)
  | uint32be => exact bigEndianInteger_of_ne (ne rfl)
  | uint16fp1 => exact scaledUnsigned16_of_ne (ne rfl)
  | unixtime => exact littleEndianInteger_of_ne (ne rfl)
  | temperature => exact temperatureDatapath_of_ne (ne rfl)
  | humidity => exact scaledUnsigned16_of_ne (ne rfl)
  | latlng => exact latlngDatapath_of_ne (ne rfl)
  | rawfloat => exact rawfloatDatapath_of_ne (ne rfl)
  | bitmap => exact bitmapDatapath_of_ne (ne rfl)
  | rtcsrc => exact rtcsrcDatapath_of_ne (ne rfl)
  | reservedD => cases hw
  | reservedE => cases hw
  | reservedF => cases hw

theorem exec_of_width_ne {i : Instr} {w : Nat} {s : State} (hw : width i = some w) (hne : s.request.len.toNat ≠ w) :
    exec i s = .next { s with answer := .error (.invalidFieldLength s.request.len) } :=
  exec_of_datapath (a := .error _) (datapath_of_width_ne hw hne s.params)

/-- The width of an operation is never 0 (R6), so an empty slice has the wrong length for all of them. -/
theorem exec_of_len_zero {i : Instr} {s : State} (hi : i.wf = true) (hlen : s.request.len = 0) :
    exec i s = .next { s with answer := .error (.invalidFieldLength 0) } := by
  obtain ⟨w, hw⟩ := Option.isSome_iff_exists.1 hi
  have hpos : 1 ≤ w := ((codeAndWidth i).2 w hw).1
  have hne : s.request.len.toNat ≠ w := by
    rw [hlen]
    exact Nat.ne_of_lt hpos
  rw [exec_of_width_ne hw hne, hlen]

/-- Settles O35: the length check of every operation is a test for equality, and LEN = 0 fails it. -/
theorem wrongLengthFaultsEveryOperation : Obligations.WrongLengthFaultsEveryOperation :=
  ⟨fun _ _ _ hw hne => ⟨_, exec_of_width_ne hw hne, rfl, rfl⟩, fun _ _ => exec_of_len_zero⟩

/-- R155: with LEN the operation's width, and for RTCSRC a mapped byte, there is a result. -/
theorem exec_ok_of_width_of_data {i : Instr} {s : State} (hw : width i = some s.request.len.toNat)
    (hdata : i = .rtcsrc → (s.request.byte 0).toNat ≤ 4) : ∃ r, exec i s = .next { s with answer := .ok r } := by
  by_cases hi : i = .rtcsrc
  · subst hi
    exact ⟨_, exec_rtcsrc_of_le (Option.some.inj hw).symm (hdata rfl)⟩
  · exact exec_ok_of_width hi hw

/-- What an answer says of the operation and the request it answers: the cause of a fault and its information value
(R150), or that no cause applies. `exec_answers_with_cause` ties it to `exec`. -/
def Cause (i : Instr) (q : Request) : Answer → Prop
  | .ok _ => width i = some q.len.toNat ∧ (i = .rtcsrc → (q.byte 0).toNat ≤ 4)
  | .error (.invalidFieldLength l) => l = q.len ∧ ∃ w, width i = some w ∧ q.len.toNat ≠ w
  | .error (.unknownEnumValue b) => i = .rtcsrc ∧ b = q.byte 0 ∧ 4 < b.toNat
  | .error (.illegalOp o) => o = encode i ∧ (i = .reservedD ∨ i = .reservedE ∨ i = .reservedF)

/-- Every operation is answered, and its answer has its cause. The cases are the tests of R154 in their order. -/
theorem exec_answers_with_cause (i : Instr) (s : State) :
    ∃ a, exec i s = .next { s with answer := a } ∧ Cause i s.request a := by
  cases hw : width i with
  | none =>
    have hi : i.wf = false := congrArg Option.isSome hw
    exact ⟨_, exec_of_wf_eq_false hi s, rfl, (wf_eq_false_iff i).1 hi⟩
  | some w =>
    by_cases hlen : s.request.len.toNat = w
    · subst hlen
      by_cases hdata : i = .rtcsrc → (s.request.byte 0).toNat ≤ 4
      · obtain ⟨r, hr⟩ := exec_ok_of_width_of_data hw hdata
        exact ⟨_, hr, hw, hdata⟩
      · obtain ⟨rfl, hb⟩ := Classical.not_imp.1 hdata
        exact ⟨_, exec_rtcsrc_of_not_le (Option.some.inj hw).symm hb, rfl, rfl, Nat.lt_of_not_le hb⟩
    · exact ⟨_, exec_of_width_ne hw hlen, rfl, w, hw, hlen⟩

theorem cause_of_exec {i : Instr} {s t : State} (h : exec i s = .next t) : Cause i s.request t.answer := by
  obtain ⟨a, ha, hcause⟩ := exec_answers_with_cause i s
  obtain rfl := Host.Outcome.next.inj (h.symm.trans ha)
  exact hcause

theorem answer_eq_of_exec {i : Instr} {s t : State} {a : Answer} (h : exec i s = .next t)
    (ha : exec i s = .next { s with answer := a }) : t.answer = a :=
  congrArg State.answer (Host.Outcome.next.inj (h.symm.trans ha))

/-- The code on ST is that of the answer which stands on the ports (R17). -/
theorem State.st_of_answer {t : State} {a : Answer} (h : t.answer = a) : t.st = statusCode a := congrArg statusCode h

/-- Settles O36: an answer has its cause, and conversely each cause fixes the answer. -/
theorem faultKindsCausesAndCodes : Obligations.FaultKindsCausesAndCodes := by
  intro i s t h
  have cause {a : Answer} (ha : t.answer = a) : Cause i s.request a := ha ▸ cause_of_exec h
  refine ⟨fun r hr => State.st_of_answer hr, fun l hl => ⟨State.st_of_answer hl, cause hl⟩,
    fun b hb => ⟨State.st_of_answer hb, cause hb⟩, fun o ho => ⟨State.st_of_answer ho, cause ho⟩,
    fun hi => ?_, fun w hw hne => ?_, fun hi hlen hb => ?_⟩
  · exact answer_eq_of_exec h (exec_of_wf_eq_false ((wf_eq_false_iff i).2 hi) s)
  · exact answer_eq_of_exec h (exec_of_width_ne hw hne)
  · subst hi
    exact answer_eq_of_exec h (exec_rtcsrc_of_not_le hlen hb.not_ge)

/-- R54: a select code decodes to RTCSRC only if it is RTCSRC's own. -/
theorem eq_of_decode_eq_rtcsrc {op : BitVec 4} (h : decode op = .rtcsrc) : op = 0xC :=
  (encode_decode op).symm.trans (congrArg encode h)

/-- R55, R151: a reserved code on the ports takes IllegalOp and reports itself. -/
theorem exec_decode_of_reserved {op : BitVec 4} (h : 13 ≤ op.toNat) (s : State) :
    exec (decode op) s = .next { s with answer := .error (.illegalOp op) } := by
  have hwf : ¬ (decode op).wf = true := fun hop => absurd ((wf_decode_iff op).1 hop) (by omega)
  rw [exec_of_wf_eq_false (Bool.eq_false_of_not_eq_true hwf), encode_decode]

/-- Settles O37: a step runs the decoded operation on the presented request, and each clause is one case of it. -/
theorem faultPriority : Obligations.FaultPriority := by
  rintro s _ rfl
  refine ⟨fun hop => ?_, fun w hw hne => ?_, fun hop hlen hb => ?_, fun w hw hlen hdata => ?_⟩
  · exact exec_decode_of_reserved hop s.present
  · exact exec_of_width_ne hw hne
  · rw [step_of_decode (i := .rtcsrc) (hop ▸ rfl)]
    exact exec_rtcsrc_of_not_le hlen hb.not_ge
  · subst hlen
    exact exec_ok_of_width_of_data hw fun hi => hdata (eq_of_decode_eq_rtcsrc hi)

end Sys2Proof.Machine

/-! PROOFS. The canonical form of the lanes is canonical, and reading a request image gives back what was written
(R51; log entries 7 and 19): O3, O4, O5, O48. -/

namespace Sys2Proof

namespace Machine

/-- A listed lane reads the byte of its entry. -/
theorem Memory.read_cons_self (a : Nat) (v : Byte) (m : Memory) : Memory.read ((a, v) :: m) a = v := if_pos rfl

theorem Memory.read_cons_of_ne {a b : Nat} (h : b ≠ a) (v : Byte) (m : Memory) :
    Memory.read ((a, v) :: m) b = m.read b := if_neg h

/-- Of two canonical lists that read alike, neither starts above the other: the byte it lists is not 0. -/
theorem Memory.head_le_of_read_eq {m n : Memory} {a b lo lo' : Nat} {v w : Byte}
    (hm : Memory.wfFrom lo ((a, v) :: m) = true) (hn : Memory.wfFrom lo' ((b, w) :: n) = true)
    (h : Memory.read ((a, v) :: m) a = Memory.read ((b, w) :: n) a) : b ≤ a := by
  obtain ⟨-, -, hv, -⟩ := Memory.wfFrom_cons.1 hm
  obtain ⟨-, hb, hw, hn'⟩ := Memory.wfFrom_cons.1 hn
  by_contra hlt
  have hzero : Memory.read ((b, w) :: n) a = 0 :=
    Memory.read_of_lt (Memory.wfFrom_cons.2 ⟨le_rfl, hb, hw, hn'⟩) (Nat.lt_of_not_le hlt)
  rw [Memory.read_cons_self, hzero] at h
  exact hv h

/-- Log entry 7: two canonical lists that read alike are equal, entry by entry. -/
theorem Memory.eq_of_read_eq {m n : Memory} {lo lo' : Nat} (hm : Memory.wfFrom lo m = true)
    (hn : Memory.wfFrom lo' n = true) (h : ∀ a, m.read a = n.read a) : m = n := by
  induction m generalizing n lo lo' with
  | nil =>
    cases n with
    | nil => rfl
    | cons d n =>
      obtain ⟨-, -, hw, -⟩ := Memory.wfFrom_cons.1 hn
      exact absurd ((h d.1).trans (Memory.read_cons_self d.1 d.2 n)).symm hw
  | cons c m ih =>
    obtain ⟨a, v⟩ := c
    obtain ⟨-, -, hv, hm'⟩ := Memory.wfFrom_cons.1 hm
    cases n with
    | nil => exact absurd ((Memory.read_cons_self a v m).symm.trans (h a)) hv
    | cons d n =>
      obtain ⟨b, w⟩ := d
      obtain ⟨-, -, -, hn'⟩ := Memory.wfFrom_cons.1 hn
      obtain rfl : a = b := Nat.le_antisymm (Memory.head_le_of_read_eq hn hm (h b).symm)
        (Memory.head_le_of_read_eq hm hn (h a))
      have hvw : v = w := by simpa only [Memory.read_cons_self] using h a
      have htail : m = n := ih hm' hn' fun k => by
        by_cases hk : k = a
        · rw [hk, Memory.read_of_lt hm' (Nat.lt_succ_self a), Memory.read_of_lt hn' (Nat.lt_succ_self a)]
        · simpa only [Memory.read_cons_of_ne hk] using h k
      rw [hvw, htail]

/-- Settles O48: above the last lane both read 0. -/
theorem lanesThatReadAlikeAreEqual : Obligations.LanesThatReadAlikeAreEqual := by
  intro m n hm hn h
  refine Memory.eq_of_read_eq hm hn fun a => ?_
  by_cases ha : a < 8
  · exact h a ha
  · rw [Memory.read_of_ge hm (Nat.le_of_not_lt ha), Memory.read_of_ge hn (Nat.le_of_not_lt ha)]

/-! ### The request image (R51) -/

theorem Request.onLanes_le (r : Request) : r.onLanes ≤ 8 := Nat.min_le_right _ _

/-- The bytes of the slice that stand on lanes; `encodeImage_eq_cons` ties them to the image. -/
def Request.sliceBytes (r : Request) : List Byte := (List.range r.onLanes).map r.byte

@[simp] theorem Request.length_sliceBytes (r : Request) : r.sliceBytes.length = r.onLanes := by
  simp [Request.sliceBytes]

theorem Request.getD_sliceBytes {r : Request} {k : Nat} (h : k < r.onLanes) : r.sliceBytes.getD k 0 = r.byte k := by
  simp [Request.sliceBytes, List.getD, h]

/-- The request an image gives back: that of its slice, with every other lane at 0. -/
def Request.sliceOnly (r : Request) : Request := { r with lanes := Memory.ofBytes r.sliceBytes }

theorem Request.byte_sliceOnly {r : Request} {k : Nat} (h : k < r.onLanes) : r.sliceOnly.byte k = r.byte k := by
  have hk : k < 8 := h.trans_le r.onLanes_le
  rw [Request.byte, Request.sliceOnly, Memory.read_ofBytes, if_pos hk, Request.getD_sliceBytes h]

/-- Lanes that are canonical and drive nothing outside the slice are those of the slice. -/
theorem Request.sliceOnly_eq_self {r : Request} (hwf : r.wf = true) (hout : ∀ k, r.onLanes ≤ k → r.byte k = 0) :
    r.sliceOnly = r := by
  have hlanes : Memory.ofBytes r.sliceBytes = r.lanes := by
    refine Memory.eq_of_read_eq (Memory.ofBytes_wf _) hwf fun k => ?_
    by_cases hk : k < r.onLanes
    · exact Request.byte_sliceOnly hk
    · have hdefault : r.sliceBytes.getD k 0 = 0 := List.getD_eq_default _ _ (by simpa using hk)
      rw [Memory.read_ofBytes, hdefault, ite_self]
      exact (hout k (Nat.le_of_not_lt hk)).symm
  rw [Request.sliceOnly, hlanes]

end Machine

open Machine

theorem encodeImage_eq_cons (r : Request) :
    encodeImage r = BitVec.ofNat 8 (r.opsel.toNat * 16 + r.len.toNat) :: r.sliceBytes := rfl

/-- The low and the high half of the first byte of an image. -/
theorem image_head_halves (op len : BitVec 4) :
    BitVec.ofNat 4 (bits (BitVec.ofNat 8 (op.toNat * 16 + len.toNat)).toNat 3 0) = len ∧
      BitVec.ofNat 4 (bits (BitVec.ofNat 8 (op.toNat * 16 + len.toNat)).toNat 7 4) = op := by
  have hop : op.toNat < 16 := op.isLt
  have hlen : len.toNat < 16 := len.isLt
  have hhead : (BitVec.ofNat 8 (op.toNat * 16 + len.toNat)).toNat = op.toNat * 16 + len.toNat :=
    Nat.mod_eq_of_lt (by omega)
  have hlow : bits (op.toNat * 16 + len.toNat) 3 0 = len.toNat := by simp only [bits]; omega
  have hhigh : bits (op.toNat * 16 + len.toNat) 7 4 = op.toNat := by simp only [bits]; omega
  simp [hhead, hlow, hhigh]

/-- R51: the image of a request reads as its OPSEL, its LEN and its slice, and what follows is left. -/
theorem decodeImage_encodeImage (r : Request) (rest : List Byte) :
    decodeImage (encodeImage r ++ rest) = .ok (r.sliceOnly, rest) := by
  obtain ⟨hlen, hop⟩ := image_head_halves r.opsel r.len
  have hn : min r.len.toNat 8 = r.sliceBytes.length := r.length_sliceBytes.symm
  have hlong : ¬ (r.sliceBytes ++ rest).length < r.sliceBytes.length := by simp
  simp only [encodeImage_eq_cons, List.cons_append, decodeImage, hlen, hop, hn, if_neg hlong, List.take_left,
    List.drop_left]
  rfl

/-- Settles O3: the request read back is the one with the slice alone on its lanes. -/
theorem requestImageRoundTrip : Obligations.RequestImageRoundTrip := by
  intro r rest hwf hout
  rw [decodeImage_encodeImage, Request.sliceOnly_eq_self hwf hout]

/-- Settles O4: the request read back keeps the ports and the lanes of the slice. -/
theorem requestImageKeepsTheSlice : Obligations.RequestImageKeepsTheSlice :=
  fun r rest => ⟨r.sliceOnly, decodeImage_encodeImage r rest, rfl, rfl, fun _ => Request.byte_sliceOnly⟩

/-- The LEN a first byte announces is its low half. -/
theorem image_head_len (h : Byte) : (BitVec.ofNat 4 (bits h.toNat 3 0)).toNat = h.toNat % 16 := by
  simp [bits]

/-- Settles O5: the number of bytes wanted is that of the lanes LEN announces. -/
theorem malformedImagesAreRefused : Obligations.MalformedImagesAreRefused := by
  refine ⟨rfl, fun h bs hshort => ?_⟩
  simp only [decodeImage, image_head_len, if_pos hshort]

end Sys2Proof

/-! PROOFS. One transaction: it is answered, it changes the answer alone, and evaluating its request again changes nothing
(R10, R33, R155, R157, R174, R175): O1, O6, O7, O26, O27, O40, O46, O47, O51, O52. -/

namespace Sys2Proof.Machine

/-! ### What a step does -/

theorem step_answers (s : State) : ∃ a, step s = .next { s.present with answer := a } :=
  exec_answers _ s.present

/-- The next state of a step is the presented one with a new answer. -/
theorem eq_with_answer_of_step {s t : State} (h : step s = .next t) : ∃ a, t = { s.present with answer := a } :=
  eq_with_answer_of_exec h

/-- Settles O40: every datapath ends in an answer, and a step is one of them. -/
theorem everyTransactionIsAnswered : Obligations.EveryTransactionIsAnswered := by
  refine ⟨exec_answers, fun s => ?_⟩
  obtain ⟨a, ha⟩ := step_answers s
  exact ⟨a, ha, ha ▸ trivial⟩

/-- Settles O27: neither presenting a request nor a new answer touches the parameters. -/
theorem parameterIsFixed : Obligations.ParameterIsFixed := by
  refine ⟨rfl, rfl, fun i s t h => ?_, fun s t h => ?_⟩
  · obtain ⟨a, rfl⟩ := eq_with_answer_of_exec h
    rfl
  · obtain ⟨a, rfl⟩ := eq_with_answer_of_step h
    exact s.present_params

/-- Settles O1: the rows of the three tables, evaluated code by code (R53, R55). -/
theorem operationCodesDecode : Obligations.OperationCodesDecode := by
  unfold Obligations.OperationCodesDecode
  decide

/-- Settles O6: the equations of `step` and `present`. -/
theorem stepRunsTheDecodedOperation : Obligations.StepRunsTheDecodedOperation :=
  ⟨fun _ _ => step_of_decode, State.present_of_nil, fun s q _ => s.present_of_cons q⟩

/-- Settles O7: the request lined up has the word as its OPSEL, and that is the row's own code. -/
theorem fetchWordRunsTheTableRow : Obligations.FetchWordRunsTheTableRow := by
  intro s nbits w i h
  obtain rfl : decode (BitVec.ofNat 4 w) = i := Option.some.inj h
  rw [encode_decode]
  rfl

/-! ### The parameter (R6, R111) -/

/-- Every datapath but LATLNG's is a function of the request alone. -/
theorem datapath_params_irrelevant {i : Instr} (hi : i ≠ .latlng) (p p' : Params) (q : Request) :
    datapath i p q = datapath i p' q := by
  cases i with
  | latlng => exact absurd rfl hi
  | _ => rfl

/-- Settles O26: apart from its parameters a state enters the datapath through its request alone. -/
theorem parameterReachesOnlyLatlng : Obligations.ParameterReachesOnlyLatlng := by
  intro i s t hi hrequest
  obtain ⟨a, ha⟩ := datapath_answers i s.params s.request
  refine ⟨a, exec_of_datapath ha, exec_of_datapath ?_⟩
  rw [← hrequest, datapath_params_irrelevant hi t.params s.params, ha]

/-! ### Evaluating a request again -/

/-- R10: the answer on the ports is no input, so running an operation again gives the same next state. -/
theorem exec_idempotent {i : Instr} {s t : State} (h : exec i s = .next t) : exec i t = .next t := by
  obtain ⟨a, ha⟩ := datapath_answers i s.params s.request
  obtain rfl := Host.Outcome.next.inj (h.symm.trans (exec_of_datapath ha))
  exact exec_of_datapath (s := { s with answer := a }) ha

/-- After a step the answer on the ports is that of the request on the ports. -/
theorem settled_of_step {s t : State} (h : step s = .next t) : Settled t := by
  obtain ⟨a, rfl⟩ := eq_with_answer_of_step h
  exact exec_idempotent h

/-- Settles O47: with nothing lined up a step evaluates the held request, whose answer already stands there. -/
theorem heldRequestKeepsItsAnswer : Obligations.HeldRequestKeepsItsAnswer := by
  intro s t h hpending
  rw [step, t.present_of_nil hpending]
  exact settled_of_step h

/-- Settles O46: a request enters the datapath with the parameters, which no transaction changes. -/
theorem orderAndRepetitionDoNotMatter : Obligations.OrderAndRepetitionDoNotMatter := by
  intro s p q
  obtain ⟨a, ha⟩ := datapath_answers (decode p.opsel) s.params p
  obtain ⟨b, hb⟩ := datapath_answers (decode q.opsel) s.params q
  exact ⟨a, b, step_drive_of_datapath ha, step_drive_of_datapath (s := { s with request := p, answer := a }) hb,
    step_drive_of_datapath hb, step_drive_of_datapath (s := { s with request := q, answer := b }) ha,
    step_drive_of_datapath (s := { s with request := p, answer := a }) ha⟩

/-! ### The invariant -/

theorem State.wf_iff (s : State) : s.wf = true ↔ s.request.wf = true ∧ ∀ q ∈ s.pending, q.wf = true := by
  simp [State.wf]

/-- Presenting a request takes it from those the state already held. -/
theorem State.present_wf {s : State} (h : s.wf = true) : s.present.wf = true := by
  obtain ⟨-, hpresent⟩ | ⟨q, qs, hpending, hpresent⟩ := s.present_cases
  · rwa [hpresent]
  · obtain ⟨-, hall⟩ := s.wf_iff.1 h
    rw [hpending, List.forall_mem_cons] at hall
    rw [hpresent]
    exact (State.wf_iff _).2 hall

theorem step_keeps_wf {s t : State} (hwf : s.wf = true) (h : step s = .next t) : t.wf = true := by
  obtain ⟨a, rfl⟩ := eq_with_answer_of_step h
  exact State.present_wf hwf

/-- Settles O51: canonical lanes are kept, and after any step the ports are settled. -/
theorem stepKeepsInvariant : Obligations.StepKeepsInvariant :=
  fun _ _ ⟨hwf, _⟩ h => ⟨step_keeps_wf hwf h, settled_of_step h⟩

/-- Settles O52: code 0 with LEN 0 is answered with the length fault that stands on the ports. -/
theorem invariantHoldsAtReset : Obligations.InvariantHoldsAtReset :=
  ⟨State.reset_wf, exec_of_len_zero rfl rfl⟩

end Sys2Proof.Machine

/-! PROOFS. The two byte orders number the slices of a length one to one, and so do the operations that unpack them
(R37, R77): O15, O16. -/

namespace Sys2Proof

/-! ### The two byte orders (R36, R37) -/

/-- R37, the sum: the head weighs as much as the tail is long, and the tail weighs what it weighs alone. -/
theorem ube_eq_sum (bs : List Byte) :
    ube bs = ∑ k ∈ Finset.range bs.length, (bs.getD k 0).toNat * 2 ^ (8 * (bs.length - 1 - k)) := by
  induction bs with
  | nil => rfl
  | cons b bs ih =>
    rw [ube_cons, ih, List.length_cons, Finset.sum_range_succ', Nat.add_comm]
    simp only [List.getD_cons_zero, List.getD_cons_succ, Nat.add_sub_cancel, Nat.sub_zero, Nat.sub_sub,
      Nat.add_comm 1]

/-- R37: the big-endian value is the little-endian value of the reversed bytes. -/
theorem ube_eq_ule_reverse (bs : List Byte) : ube bs = ule bs.reverse := by
  induction bs with
  | nil => rfl
  | cons b bs ih =>
    rw [ube_cons, ih, List.reverse_cons, ule_append_byte, List.length_reverse, Nat.mul_comm, Nat.add_comm]

/-- Settles O15: each half is an induction on the list of bytes. -/
theorem bigEndianValueIsTheWeightedSum : Obligations.BigEndianValueIsTheWeightedSum :=
  fun bs => ⟨ube_eq_sum bs, ube_eq_ule_reverse bs⟩

/-- A little-endian value determines its bytes, the first by its remainder and the others by its quotient. -/
theorem ule_inj {bs cs : List Byte} (hlen : bs.length = cs.length) (h : ule bs = ule cs) : bs = cs := by
  induction bs generalizing cs with
  | nil => exact (List.length_eq_zero_iff.1 hlen.symm).symm
  | cons b bs ih =>
    obtain ⟨c, cs, rfl⟩ := List.exists_cons_of_length_eq_add_one hlen.symm
    have hb : b.toNat < 2 ^ 8 := b.isLt
    have hc : c.toNat < 2 ^ 8 := c.isLt
    rw [ule_cons, ule_cons] at h
    have hhead : b = c := BitVec.eq_of_toNat_eq (by omega)
    have htail : bs = cs := ih (Nat.succ.inj hlen) (by omega)
    rw [hhead, htail]

/-- Every value of the range is the little-endian value of some bytes. -/
theorem exists_ule_eq {w v : Nat} (h : v < 2 ^ (8 * w)) : ∃ bs : List Byte, bs.length = w ∧ ule bs = v := by
  induction w generalizing v with
  | zero => exact ⟨[], rfl, (Nat.lt_one_iff.1 h).symm⟩
  | succ w ih =>
    rw [Nat.mul_succ, Nat.pow_add, Nat.mul_comm] at h
    obtain ⟨bs, hlen, hbs⟩ := ih (Nat.div_lt_of_lt_mul h)
    refine ⟨BitVec.ofNat 8 v :: bs, congrArg Nat.succ hlen, ?_⟩
    rw [ule_cons, hbs, BitVec.toNat_ofNat, Nat.mod_add_div]

/-- A byte order numbers the slices of each length by the range of that length; `ule_numbersSlices` and
`ube_numbersSlices` give the two there are. -/
structure NumbersSlices (val : List Byte → Nat) : Prop where
  lt : ∀ bs, val bs < 2 ^ (8 * bs.length)
  inj : ∀ {bs cs : List Byte}, bs.length = cs.length → val bs = val cs → bs = cs
  surj : ∀ {w v : Nat}, v < 2 ^ (8 * w) → ∃ bs : List Byte, bs.length = w ∧ val bs = v

theorem ule_numbersSlices : NumbersSlices ule := ⟨ule_lt, ule_inj, exists_ule_eq⟩

theorem ube_numbersSlices : NumbersSlices ube where
  lt := ube_lt
  inj hlen h := by
    rw [ube_eq_ule_reverse, ube_eq_ule_reverse] at h
    exact List.reverse_injective (ule_inj (by simpa using hlen) h)
  surj h := by
    obtain ⟨bs, hlen, hbs⟩ := exists_ule_eq h
    exact ⟨bs.reverse, by rwa [List.length_reverse], by rwa [ube_eq_ule_reverse, List.reverse_reverse]⟩

namespace Machine

/-! ### A slice on the ports (R12) -/

theorem Request.len_ofSlice (op : BitVec 4) (bs : List Byte) :
    (Request.ofSlice op bs).len.toNat = min bs.length 15 :=
  Nat.mod_eq_of_lt (Nat.lt_succ_of_le (Nat.min_le_right _ _))

theorem Request.byte_ofSlice (op : BitVec 4) (bs : List Byte) {k : Nat} (h : k < 8) :
    (Request.ofSlice op bs).byte k = bs.getD k 0 :=
  (Memory.read_ofBytes k bs).trans (if_pos h)

/-- Bytes read one by one up to the length of a list are the list. -/
theorem map_range_eq_of_getD {f : Nat → Byte} {bs : List Byte} (h : ∀ k, k < bs.length → f k = bs.getD k 0) :
    (List.range bs.length).map f = bs := by
  refine List.ext_getElem (by simp) fun k _ hk => ?_
  rw [List.getElem_map, List.getElem_range, h k hk, List.getD_eq_getElem _ _ hk]

/-- A slice that fits the lanes is read back whole. -/
theorem Request.map_byte_ofSlice (op : BitVec 4) {bs : List Byte} (h : bs.length ≤ 8) :
    (List.range bs.length).map (Request.ofSlice op bs).byte = bs :=
  map_range_eq_of_getD fun _ hk => Request.byte_ofSlice op bs (hk.trans_le h)

/-! ### The integer operations (R77) -/

/-- The operation answers the number `val` of its slice of `w` bytes; `unpacks_of_littleEndian` and
`unpacks_of_bigEndian` tie it to the datapaths. -/
def Unpacks (i : Instr) (w : Nat) (val : List Byte → Nat) : Prop :=
  ∀ s : State, s.request.len.toNat = w →
    exec i s = .next { s with answer := .ok (Response.number false (val ((List.range w).map s.request.byte))) }

theorem unpacks_of_littleEndian {i : Instr} {w : Nat} (hw : w ≤ 8)
    (hi : ∀ p q, datapath i p q = littleEndianInteger w q) : Unpacks i w ule :=
  fun _ h => exec_of_datapath ((hi _ _).trans (littleEndianInteger_of_len h hw))

theorem unpacks_of_bigEndian {i : Instr} {w : Nat} (hw : w ≤ 8)
    (hi : ∀ p q, datapath i p q = bigEndianInteger w q) : Unpacks i w ube :=
  fun _ h => exec_of_datapath ((hi _ _).trans (bigEndianInteger_of_len h hw))

theorem uint16_unpacks : Unpacks .uint16 2 ule := unpacks_of_littleEndian (by decide) fun _ _ => rfl

theorem uint32_unpacks : Unpacks .uint32 4 ule := unpacks_of_littleEndian (by decide) fun _ _ => rfl

theorem uint16be_unpacks : Unpacks .uint16be 2 ube := unpacks_of_bigEndian (by decide) fun _ _ => rfl

theorem uint32be_unpacks : Unpacks .uint32be 4 ube := unpacks_of_bigEndian (by decide) fun _ _ => rfl

/-- Each of the six unpacks one of the two byte orders. -/
theorem integer_unpacks {i : Instr} {w : Nat} (hw : width i = some w)
    (hi : i ∈ [Instr.uint8, .uint16, .uint32, .uint16be, .uint32be, .unixtime]) :
    ∃ val, NumbersSlices val ∧ Unpacks i w val := by
  simp only [List.mem_cons, List.not_mem_nil, or_false] at hi
  obtain rfl | rfl | rfl | rfl | rfl | rfl := hi <;> obtain rfl := Option.some.inj hw
  · exact ⟨ule, ule_numbersSlices, unpacks_of_littleEndian (by decide) fun _ _ => rfl⟩
  · exact ⟨ule, ule_numbersSlices, uint16_unpacks⟩
  · exact ⟨ule, ule_numbersSlices, uint32_unpacks⟩
  · exact ⟨ube, ube_numbersSlices, uint16be_unpacks⟩
  · exact ⟨ube, ube_numbersSlices, uint32be_unpacks⟩
  · exact ⟨ule, ule_numbersSlices, unpacks_of_littleEndian (by decide) fun _ _ => rfl⟩

section

variable {i : Instr} {w : Nat} {val : List Byte → Nat}

theorem Unpacks.exec_ofSlice (h : Unpacks i w val) {s : State} {op : BitVec 4} {bs : List Byte} (hlen : bs.length = w)
    (hw : w ≤ 8) (hs : s.request = Request.ofSlice op bs) :
    exec i s = .next { s with answer := .ok (Response.number false (val bs)) } := by
  subst hlen
  have hports : s.request.len.toNat = bs.length := by
    rw [hs, Request.len_ofSlice]
    omega
  rw [h s hports, hs, Request.map_byte_ofSlice op hw]

/-- The number of a slice that fits the lanes fits R0. -/
theorem number_mag_of_numbersSlices (hval : NumbersSlices val) {bs : List Byte} (hw : bs.length ≤ 8) :
    (Response.number false (val bs)).r0.mag.toNat = val bs :=
  Nat.mod_eq_of_lt ((hval.lt bs).trans_le (Nat.pow_le_pow_right (by decide) (by omega)))

/-- R77: a value is answered for the one slice whose number it is. -/
theorem Unpacks.existsUnique_slice (h : Unpacks i w val) (hval : NumbersSlices val) (hw : w ≤ 8) {v : Nat}
    (hv : v < 2 ^ (8 * w)) :
    ∃! bs : List Byte, bs.length = w ∧
      ∀ s : State, ∃ r, exec i { s with request := Request.ofSlice (encode i) bs } =
          .next { s with request := Request.ofSlice (encode i) bs, answer := .ok r } ∧
        r.r0.neg = false ∧ r.r0.mag.toNat = v := by
  obtain ⟨bs, hlen, hbs⟩ := hval.surj hv
  refine ⟨bs, ⟨hlen, fun s => ⟨_, h.exec_ofSlice hlen hw rfl, rfl, ?_⟩⟩, ?_⟩
  · rw [number_mag_of_numbersSlices hval (hlen.trans_le hw), hbs]
  · rintro cs ⟨hcs, hanswer⟩
    obtain ⟨r, hexec, -, hmag⟩ := hanswer State.reset
    have hr : (.ok r : Answer) = .ok (Response.number false (val cs)) :=
      answer_eq_of_exec hexec (h.exec_ofSlice hcs hw rfl)
    obtain rfl := Except.ok.inj hr
    rw [number_mag_of_numbersSlices hval (hcs.trans_le hw)] at hmag
    exact hval.inj (hcs.trans hlen.symm) (hmag.trans hbs.symm)

/-- R77: no result leaves the range. -/
theorem Unpacks.result_lt (h : Unpacks i w val) (hval : NumbersSlices val) (hw : w ≤ 8) {s : State}
    (hlen : s.request.len.toNat = w) :
    ∃ r, exec i s = .next { s with answer := .ok r } ∧ r.r0.neg = false ∧ r.r0.mag.toNat < 2 ^ (8 * w) := by
  have hslice : ((List.range w).map s.request.byte).length = w := by simp
  refine ⟨_, h s hlen, rfl, ?_⟩
  rw [number_mag_of_numbersSlices hval (hslice.trans_le hw)]
  exact (hval.lt _).trans_eq (by rw [hslice])

end

/-- Settles O16: the operations number their slices by a byte order, and reversing a slice swaps the two orders. -/
theorem integerOperationsAreBijections : Obligations.IntegerOperationsAreBijections := by
  refine ⟨fun i w hi hw => ?_, fun s b0 b1 => ?_, fun s b0 b1 b2 b3 => ?_⟩
  · obtain ⟨val, hval, hunpacks⟩ := integer_unpacks hw hi
    have hle : w ≤ 8 := ((codeAndWidth i).2 w hw).2
    exact ⟨fun v => hunpacks.existsUnique_slice hval hle, fun s => hunpacks.result_lt hval hle⟩
  · refine ⟨_, uint16be_unpacks.exec_ofSlice rfl (by decide) rfl, ?_⟩
    rw [ube_eq_ule_reverse]
    exact uint16_unpacks.exec_ofSlice rfl (by decide) rfl
  · refine ⟨_, uint32be_unpacks.exec_ofSlice rfl (by decide) rfl, ?_⟩
    rw [ube_eq_ule_reverse]
    exact uint32_unpacks.exec_ofSlice rfl (by decide) rfl

end Machine

end Sys2Proof

/-! PROOFS. Two's complement: the magnitude of a temperature, and the two readings of a coordinate (R94, R110, R111):
O19, O23, O24. -/

namespace Sys2Proof.Machine

/-! ### TEMPERATURE (R94) -/

theorem magnitude16_of_positive {x : Nat} (h : bit x 15 = false) : magnitude16 x = x := by
  rw [magnitude16, h]
  rfl

theorem magnitude16_of_negative {x : Nat} (h : bit x 15 = true) : magnitude16 x = negN 16 x := by
  rw [magnitude16, if_pos h]

/-- Settles O19: bit 15 splits the patterns at 2^15, and inversion leaves one whose increment does not carry out. -/
theorem twosComplementMagnitudeOfTemperature : Obligations.TwosComplementMagnitudeOfTemperature := by
  refine ⟨fun x hx => ⟨fun hbit => ?_, fun hbit => ?_, bit_eq_decide_sext_neg hx, ?_⟩, by decide⟩
  · have hlow : ¬ 2 ^ 15 ≤ x := of_decide_eq_false ((bit_eq_decide hx).symm.trans hbit)
    exact ⟨magnitude16_of_positive hbit, by omega⟩
  · have hhigh : 2 ^ 15 ≤ x := of_decide_eq_true ((bit_eq_decide hx).symm.trans hbit)
    have hsub : magnitude16 x = 65536 - x := (magnitude16_eq_ite hx).trans (if_pos hhigh)
    refine ⟨magnitude16_of_negative hbit, hsub, ?_⟩
    omega
  · rw [magnitude16_eq_natAbs_sext hx, Int.natCast_natAbs]

/-! ### Signed coordinates (R110) -/

theorem coordNeg_eq_decide_sext_neg {p : Nat} (h : p < 2 ^ 32) : coordNeg true p = decide (sext 32 p < 0) :=
  (Bool.true_and _).trans (bit_eq_decide_sext_neg h)

theorem coordMag_eq_natAbs_sext {p : Nat} (h : p < 2 ^ 32) : coordMag true p = (sext 32 p).natAbs := by
  rw [coordMag_signed h, sext]
  split <;> split <;> omega

theorem natAbs_sext_le {p : Nat} (h : p < 2 ^ 32) : (sext 32 p).natAbs ≤ 2 ^ 31 := by
  rw [← coordMag_eq_natAbs_sext h, coordMag_signed h]
  split <;> omega

/-- A port pair holds an integer: NEG says whether it is negative and MAG is its distance from zero. -/
def Decimal.Holds {w : Nat} (d : Decimal w) (y : Int) : Prop := d.neg = decide (y < 0) ∧ d.mag.toNat = y.natAbs

theorem Decimal.Holds.value_eq {w : Nat} {d : Decimal w} {y : Int} (h : d.Holds y) (dp : Nat) :
    d.value dp = (y : ℚ) / 10 ^ dp := by
  obtain ⟨hneg, hmag⟩ := h
  rw [Decimal.value, hneg, hmag, Nat.cast_natAbs]
  by_cases hy : y < 0
  · rw [abs_of_neg hy]
    simp [hy]
  · rw [abs_of_nonneg (not_lt.1 hy)]
    simp [hy]

/-- A negative integer is not held as zero. -/
theorem Decimal.Holds.mag_ne_zero {w : Nat} {d : Decimal w} {y : Int} (h : d.Holds y) (hd : d.neg = true) : d.mag ≠ 0 := by
  obtain ⟨hneg, hmag⟩ := h
  have hy : y < 0 := of_decide_eq_true (hneg.symm.trans hd)
  intro hzero
  have habs : y.natAbs = 0 := hmag.symm.trans (congrArg BitVec.toNat hzero)
  omega

theorem coordinatePair_r0_holds {lat : Nat} (h : lat < 2 ^ 32) (lng : Nat) :
    (coordinatePair true lat lng).r0.Holds (sext 32 lat) :=
  ⟨coordNeg_eq_decide_sext_neg h, (coordinatePair_r0_mag h lng).trans (coordMag_eq_natAbs_sext h)⟩

theorem coordinatePair_r1_holds {lng : Nat} (h : lng < 2 ^ 32) (lat : Nat) :
    (coordinatePair true lat lng).r1.Holds (sext 32 lng) :=
  ⟨coordNeg_eq_decide_sext_neg h, (coordinatePair_r1_mag h lat).trans (coordMag_eq_natAbs_sext h)⟩

/-- Settles O23: each port pair holds the signed reading of its pattern. -/
theorem signedCoordinatesAreExact : Obligations.SignedCoordinatesAreExact := by
  intro s hsigned hlen
  refine ⟨_, exec_latlng_of_len hlen, ?_⟩
  rw [hsigned]
  have hlat := operand32_lt (s.request.byte 0) (s.request.byte 1) (s.request.byte 2) (s.request.byte 3)
  have hlng := operand32_lt (s.request.byte 4) (s.request.byte 5) (s.request.byte 6) (s.request.byte 7)
  generalize operand32 (s.request.byte 0) _ _ _ = lat at hlat ⊢
  generalize operand32 (s.request.byte 4) _ _ _ = lng at hlng ⊢
  have hr0 := coordinatePair_r0_holds hlat lng
  have hr1 := coordinatePair_r1_holds hlng lat
  have hmillion : (1000000 : ℚ) = 10 ^ 6 := by norm_num
  rw [hmillion]
  exact ⟨hr0.value_eq 6, hr1.value_eq 6, hr0.mag_ne_zero, hr1.mag_ne_zero,
    hr0.2.trans_le (natAbs_sext_le hlat), hr1.2.trans_le (natAbs_sext_le hlng)⟩

/-! ### The two readings (R111) -/

/-- A pattern below 2^31 is itself under either reading. -/
theorem coord_of_lt {p : Nat} (h : p < 2 ^ 31) (signed : Bool) : coordNeg signed p = false ∧ coordMag signed p = p := by
  cases signed with
  | false => exact ⟨rfl, rfl⟩
  | true =>
    have hp : p < 2 ^ 32 := h.trans (by decide)
    exact ⟨(coordNeg_signed hp).trans (decide_eq_false h.not_ge), (coordMag_signed hp).trans (if_neg h.not_ge)⟩

theorem coordinatePair_of_lt {lat lng : Nat} (hlat : lat < 2 ^ 31) (hlng : lng < 2 ^ 31) (signed signed' : Bool) :
    coordinatePair signed lat lng = coordinatePair signed' lat lng := by
  simp only [coordinatePair, coord_of_lt hlat, coord_of_lt hlng]

/-- The top byte of an operand below 0x80 keeps it below 2^31. -/
theorem operand32_lt_of_top {b0 b1 b2 b3 : Byte} (h : b3.toNat < 0x80) : operand32 b0 b1 b2 b3 < 2 ^ 31 := by
  have hb0 : b0.toNat < 2 ^ 8 := b0.isLt
  have hb1 : b1.toNat < 2 ^ 8 := b1.isLt
  have hb2 : b2.toNat < 2 ^ 8 := b2.isLt
  unfold operand32
  omega

theorem exec_uint32_ofSlice {u : State} {b0 b1 b2 b3 : Byte} (h : u.request = Request.ofSlice 0x2 [b0, b1, b2, b3]) :
    exec .uint32 u = .next { u with answer := .ok (Response.number false (operand32 b0 b1 b2 b3)) } := by
  rw [operand32_eq_ule]
  exact uint32_unpacks.exec_ofSlice rfl (by decide) h

/-- Settles O24: the unsigned reading is the operand itself, and below 2^31 it is the signed one too. -/
theorem coordinateReadings : Obligations.CoordinateReadings := by
  refine ⟨fun s hunsigned hlen => ?_, fun s t hrequest hlen h3 h7 => ?_⟩
  · refine ⟨_, _, _, exec_latlng_of_len hlen, fun _ => exec_uint32_ofSlice, fun _ => exec_uint32_ofSlice, ?_⟩
    rw [hunsigned, coordinatePair_r1_mag (operand32_lt _ _ _ _)]
    refine ⟨rfl, rfl, Eq.symm ?_⟩
    exact Nat.mod_eq_of_lt ((operand32_lt _ _ _ _).trans (by decide))
  · refine ⟨_, exec_latlng_of_len hlen, ?_⟩
    rw [exec_latlng_of_len (hrequest ▸ hlen), ← hrequest, coordinatePair_of_lt (operand32_lt_of_top h3)
      (operand32_lt_of_top h7) t.params.latlngSigned s.params.latlngSigned]

end Sys2Proof.Machine

/-! PROOFS. The float's fields lose nothing, and the ranges of its tenths (R121, R122, R126): O29, O31. -/

namespace Sys2Proof.Machine

/-! ### The fields (R121, R122) -/

/-- With the exponent field known, the significand gives the fraction back. -/
theorem floatFraction_eq_of_significand {p q : Nat} (hexp : floatExponent p = floatExponent q)
    (hsig : floatSignificand p = floatSignificand q) : floatFraction p = floatFraction q := by
  rw [floatSignificand, floatSignificand, hexp] at hsig
  split at hsig
  · exact hsig
  · exact Nat.add_right_cancel hsig

theorem eq_of_float_fields {p q : Nat} (hp : p < 2 ^ 32) (hq : q < 2 ^ 32) (hsign : floatSign p = floatSign q)
    (hexp : floatExponent p = floatExponent q) (hsig : floatSignificand p = floatSignificand q) : p = q := by
  rw [float_fields_recompose hp, float_fields_recompose hq, hsign, hexp, floatFraction_eq_of_significand hexp hsig]

/-- An operand determines its four bytes (R52). -/
theorem operand32_inj {f g : Nat → Byte} (h : operand32 (f 0) (f 1) (f 2) (f 3) = operand32 (g 0) (g 1) (g 2) (g 3)) :
    ∀ k, k < 4 → f k = g k := by
  rw [operand32_eq_ule, operand32_eq_ule] at h
  have hbytes : (List.range 4).map f = (List.range 4).map g := ule_inj rfl h
  exact fun k hk => List.map_inj_left.1 hbytes k (List.mem_range.2 hk)

/-- Settles O29: the ports hold the three fields, the fields the pattern, and the pattern its bytes. -/
theorem floatFieldsDetermineTheSlice : Obligations.FloatFieldsDetermineTheSlice := by
  refine fun s t hs ht => ⟨_, _, exec_rawfloat_of_len hs, exec_rawfloat_of_len ht, fun hsign hfe hfsig => ?_⟩
  have hexp := congrArg BitVec.toNat hfe
  have hsig := congrArg BitVec.toNat hfsig
  rw [floatResponse_fe, floatResponse_fe] at hexp
  rw [floatResponse_fsig, floatResponse_fsig] at hsig
  exact operand32_inj (eq_of_float_fields (operand32_lt _ _ _ _) (operand32_lt _ _ _ _) hsign hexp hsig)

/-! ### The ranges (R126) -/

/-- Up to exponent field 121 ten times the significand is less than half the divisor. -/
theorem floatTenths_eq_zero {fe fsig : Nat} (hfe : fe ≤ 121) (hfsig : fsig < 2 ^ 24) : floatTenths fe fsig = 0 := by
  have hhalf : 2 ^ 28 ≤ 2 ^ (149 - fe) := Nat.pow_le_pow_right (by decide) (by omega)
  rw [floatTenths_of_lt (by omega)]
  exact Nat.div_eq_of_lt (by omega)

theorem floatTenths_122_le_one {fsig : Nat} (hfsig : fsig < 2 ^ 24) : floatTenths 122 fsig ≤ 1 := by
  rw [floatTenths_of_lt (by decide)]
  omega

/-- Rounding never gives more than ten times the significand, scaled by the positive exponent if there is one. -/
theorem floatTenths_le (fe fsig : Nat) : floatTenths fe fsig ≤ 10 * fsig * 2 ^ (fe - 150) := by
  by_cases h : 150 ≤ fe
  · exact (floatTenths_of_ge h fsig).le
  · have hpos : 0 < 2 ^ (149 - fe) := Nat.two_pow_pos _
    have hexp : fe - 150 = 0 := by omega
    rw [floatTenths_of_lt (Nat.lt_of_not_le h), hexp, pow_zero, mul_one]
    generalize 2 ^ (149 - fe) = d at hpos ⊢
    refine Nat.le_of_lt_succ (Nat.div_lt_of_lt_mul ?_)
    nlinarith

theorem floatTenths_le_of_exponent {fe fsig e : Nat} (hfe : fe ≤ 150 + e) (hfsig : fsig < 2 ^ 24) :
    floatTenths fe fsig ≤ 10 * (2 ^ 24 - 1) * 2 ^ e :=
  calc floatTenths fe fsig ≤ 10 * fsig * 2 ^ (fe - 150) := floatTenths_le fe fsig
    _ ≤ 10 * (2 ^ 24 - 1) * 2 ^ e :=
      Nat.mul_le_mul (by omega) (Nat.pow_le_pow_right (by decide) (by omega))

theorem floatResponse_mag_eq_iff {p v : Nat} (hv : v < 2 ^ 133) :
    (floatResponse p).r0.mag = BitVec.ofNat 133 v ↔ floatTenths (floatExponent p) (floatSignificand p) = v := by
  rw [← BitVec.toNat_inj, floatResponse_mag, BitVec.toNat_ofNat, Nat.mod_eq_of_lt hv]

/-- The ranges of one result. -/
theorem floatResponse_ranges (p : Nat) :
    ((floatResponse p).fe.toNat ≤ 121 → (floatResponse p).r0.mag = 0) ∧
    ((floatResponse p).fe.toNat = 122 → (floatResponse p).r0.mag = 0 ∨ (floatResponse p).r0.mag = 1) ∧
    (150 ≤ (floatResponse p).fe.toNat → ((floatResponse p).r0.mag.toNat : ℚ) =
      10 * (((floatResponse p).fsig.toNat : ℚ) * 2 ^ (((floatResponse p).fe.toNat : ℤ) - 150))) ∧
    (floatResponse p).r0.mag.toNat ≤ 6805646932770577196234083669690338508800 ∧
    ((floatResponse p).fe.toNat ≤ 254 → (floatResponse p).r0.mag.toNat ≤ 3402823466385288598117041834845169254400) := by
  have hfe := floatExponent_lt p
  have hfsig := floatSignificand_lt p
  have hzero := floatResponse_mag_eq_iff (p := p) (v := 0) (by decide)
  have hone := floatResponse_mag_eq_iff (p := p) (v := 1) (by decide)
  rw [floatResponse_fe, floatResponse_fsig, floatResponse_mag]
  generalize floatExponent p = fe at *
  generalize floatSignificand p = fsig at *
  refine ⟨fun h => hzero.2 (floatTenths_eq_zero h hfsig), fun h => ?_, fun h => cast_floatTenths_of_ge h fsig,
    (floatTenths_le_of_exponent (e := 105) (by omega) hfsig).trans_eq (by decide), fun h =>
      (floatTenths_le_of_exponent (e := 104) (by omega) hfsig).trans_eq (by decide)⟩
  subst h
  exact (Nat.le_one_iff_eq_zero_or_eq_one.1 (floatTenths_122_le_one hfsig)).imp hzero.2 hone.2

theorem exec_rawfloat_ofSlice {s : State} {op : BitVec 4} {b0 b1 b2 b3 : Byte}
    (h : s.request = Request.ofSlice op [b0, b1, b2, b3]) :
    exec .rawfloat s = .next { s with answer := .ok (floatResponse (operand32 b0 b1 b2 b3)) } := by
  have byte {k : Nat} (hk : k < 8) : s.request.byte k = [b0, b1, b2, b3].getD k 0 :=
    h ▸ Request.byte_ofSlice op _ hk
  rw [exec_rawfloat_of_len (h ▸ rfl), byte (by decide), byte (by decide), byte (by decide), byte (by decide)]
  rfl

/-- Settles O31: the ranges hold of the fields, and the four slices that reach the bounds are evaluated. -/
theorem floatRanges : Obligations.FloatRanges := by
  refine ⟨fun s hlen => ⟨_, exec_rawfloat_of_len hlen, floatResponse_ranges _⟩, fun s =>
    ⟨_, _, _, _, exec_rawfloat_ofSlice rfl, exec_rawfloat_ofSlice rfl, exec_rawfloat_ofSlice rfl,
      exec_rawfloat_ofSlice rfl, ?_⟩, by decide⟩
  decide

end Sys2Proof.Machine

/-! PROOFS. When there is a result, and which ports it writes (R13, R17, R152, R155): O39, O42, O43. -/

namespace Sys2Proof.Machine

/-! ### The contract of a request -/

/-- The contract says that LEN is the operation's width, so that it is an operation, and that RTCSRC's byte is mapped. -/
theorem Request.meets_iff {i : Instr} {q : Request} :
    q.meets i = true ↔ width i = some q.len.toNat ∧ (i = .rtcsrc → (q.byte 0).toNat ≤ 4) := by
  have hwf : width i = some q.len.toNat → i.wf = true := fun h => congrArg Option.isSome h
  simp only [Request.meets, Request.lenOk, Request.dataOk, Bool.and_eq_true, decide_eq_true_eq, and_assoc]
  exact ⟨And.right, fun h => ⟨hwf h.1, h⟩⟩

/-- Settles O39: a result has the contract for its cause, and the contract is enough for one. -/
theorem resultExactlyWhenTheContractIsMet : Obligations.ResultExactlyWhenTheContractIsMet := by
  intro i s
  rw [Request.meets_iff]
  exact ⟨fun ⟨_, hr⟩ => cause_of_exec hr, fun ⟨hw, hdata⟩ => exec_ok_of_width_of_data hw hdata⟩

/-! ### The ports a result writes (R13) -/

/-- The results an operation can have: which ports it writes; `writes_of_exec` ties it to `exec`. -/
inductive Writes : Instr → Response → Prop where
  | number {i : Instr} (hi : i ≠ .latlng ∧ i ≠ .rawfloat ∧ i ≠ .bitmap) (neg : Bool) (v : Nat) :
    Writes i (Response.number neg v)
  | coordinates (signed : Bool) (lat lng : Nat) : Writes .latlng (coordinatePair signed lat lng)
  | float (p : Nat) : Writes .rawfloat (floatResponse p)
  | flags (v : Nat) : Writes .bitmap { Response.zero with flags := flagsOf v }

theorem datapath_writes_of_width_of_data {i : Instr} {s : State} (hw : width i = some s.request.len.toNat)
    (hdata : i = .rtcsrc → (s.request.byte 0).toNat ≤ 4) :
    ∃ r, datapath i s.params s.request = .ok r ∧ Writes i r := by
  have len {w : Nat} (h : width i = some w) : s.request.len.toNat = w := Option.some.inj (hw.symm.trans h)
  cases i with
  | uint8 => exact ⟨_, littleEndianInteger_of_len (len rfl) (by decide), .number (by decide) _ _⟩
  | uint16 => exact ⟨_, littleEndianInteger_of_len (len rfl) (by decide), .number (by decide) _ _⟩
  | uint32 => exact ⟨_, littleEndianInteger_of_len (len rfl) (by decide), .number (by decide) _ _⟩
  | uint16be => exact ⟨_, bigEndianInteger_of_len (len rfl) (by decide), .number (by decide) _ _⟩
  | uint32be => exact ⟨_, bigEndianInteger_of_len (len rfl) (by decide), .number (by decide) _ _⟩
  | uint16fp1 => exact ⟨_, scaledUnsigned16_of_len (len rfl), .number (by decide) _ _⟩
  | unixtime => exact ⟨_, littleEndianInteger_of_len (len rfl) (by decide), .number (by decide) _ _⟩
  | temperature => exact ⟨_, temperatureDatapath_of_len (len rfl), .number (by decide) _ _⟩
  | humidity => exact ⟨_, scaledUnsigned16_of_len (len rfl), .number (by decide) _ _⟩
  | latlng => exact ⟨_, latlngDatapath_of_len (len rfl), .coordinates _ _ _⟩
  | rawfloat => exact ⟨_, rawfloatDatapath_of_len (len rfl), .float _⟩
  | bitmap => exact ⟨_, bitmapDatapath_of_len (len rfl), .flags _⟩
  | rtcsrc => exact ⟨_, (rtcsrcDatapath_of_len (len rfl)).trans (if_pos (hdata rfl)), .number (by decide) _ _⟩
  | reservedD => cases hw
  | reservedE => cases hw
  | reservedF => cases hw

theorem writes_of_exec {i : Instr} {s t : State} {r : Response} (h : exec i s = .next t) (hr : t.answer = .ok r) :
    Writes i r := by
  have hcause : Cause i s.request (.ok r) := hr ▸ cause_of_exec h
  obtain ⟨hw, hdata⟩ := hcause
  obtain ⟨q, hq, hwrites⟩ := datapath_writes_of_width_of_data hw hdata
  obtain rfl : r = q := Except.ok.inj (hr.symm.trans (answer_eq_of_exec h (exec_of_datapath (a := .ok q) hq)))
  exact hwrites

/-- Settles O42: each kind of result is the zero response but for the ports it writes. -/
theorem unwrittenPortsAreZero : Obligations.UnwrittenPortsAreZero := by
  intro i s t r h hr
  have zero : Response.zero.r1.neg = false ∧ Response.zero.r1.mag = 0 := ⟨rfl, rfl⟩
  cases writes_of_exec h hr with
  | number hi neg v =>
    obtain ⟨-, hfloat, hbitmap⟩ := hi
    exact ⟨fun _ => ⟨rfl, rfl, rfl, rfl⟩, fun _ => zero, fun _ => Response.zero_flags, fun h => absurd h hbitmap⟩
  | coordinates signed lat lng =>
    exact ⟨fun _ => ⟨rfl, rfl, rfl, rfl⟩, fun h => absurd rfl h, fun _ => Response.zero_flags, nofun⟩
  | float p => exact ⟨fun h => absurd rfl h, fun _ => zero, fun _ => Response.zero_flags, nofun⟩
  | flags v => exact ⟨fun _ => ⟨rfl, rfl, rfl, rfl⟩, fun _ => zero, fun h => absurd rfl h, fun _ => ⟨rfl, rfl⟩⟩

/-- R125: WARN says that the exponent field on the port is 255. -/
theorem floatResponse_warn_iff (p : Nat) : (floatResponse p).warn = true ↔ (floatResponse p).fe = 255 := by
  rw [← BitVec.toNat_inj, floatResponse_fe]
  exact beq_iff_eq

/-- Settles O43: only RAWFLOAT's result writes WARN. -/
theorem warnMarksExponent255Only : Obligations.WarnMarksExponent255Only := by
  intro i s t r h hr
  cases writes_of_exec h hr with
  | number hi neg v =>
    obtain ⟨-, hfloat, -⟩ := hi
    exact ⟨nofun, fun hraw => absurd hraw.1 hfloat⟩
  | coordinates signed lat lng => exact ⟨nofun, nofun⟩
  | float p => exact (floatResponse_warn_iff p).trans (and_iff_right rfl).symm
  | flags v => exact ⟨nofun, nofun⟩

end Sys2Proof.Machine

/-! PROOFS. The machine on its ports computes the pure function of R10, so it depends on the slice alone
(R12, R24, R152): O44, O49, O50. -/

namespace Sys2Proof.Machine

/-! ### The pure function on a slice of the wrong length -/

theorem fdu_of_reserved {i : Instr} (h : i.wf = false) (p : Params) (bs : List Byte) :
    fdu p (encode i) bs = .error (.illegalOp (encode i)) := by
  obtain rfl | rfl | rfl := (wf_eq_false_iff i).1 h <;> rfl

/-- R152 in the list view: every slice that is not of the operation's width has the wrong length. -/
theorem fdu_of_length_ne {i : Instr} {w : Nat} {bs : List Byte} (hw : width i = some w) (h : bs.length ≠ w)
    (p : Params) : fdu p (encode i) bs = wrongLength bs := by
  have ne {v : Nat} (hv : width i = some v) : bs.length ≠ v := Option.some.inj (hw.symm.trans hv) ▸ h
  unfold fdu
  rw [decode_encode]
  cases i with
  | reservedD | reservedE | reservedF => cases hw
  | _ =>
    dsimp only
    split
    · exact absurd rfl (ne rfl)
    · rfl

/-! ### The two writings of a result -/

/-- R94, R95: rounding the distance of the signed reading from zero. -/
theorem temperatureResponse_eq {x : Nat} (h : x < 2 ^ 16) : temperatureResponse x = tenthsOfHundredths (sext 16 x) := by
  have hround (m : Nat) : hundredthsToTenths m = roundHalfUp m 10 := by
    simp only [hundredthsToTenths, roundHalfUp]
    omega
  rw [temperatureResponse, tenthsOfHundredths, bit_eq_decide_sext_neg h, magnitude16_eq_natAbs_sext h, hround]

theorem coordinate_eq {p : Nat} (h : p < 2 ^ 32) (signed : Bool) :
    coordNeg signed p = decide (coordinateValue signed p < 0) ∧ coordMag signed p = (coordinateValue signed p).natAbs := by
  cases signed with
  | false => exact ⟨(decide_eq_false (Int.natCast_nonneg p).not_gt).symm, (Int.natAbs_natCast p).symm⟩
  | true => exact ⟨coordNeg_eq_decide_sext_neg h, coordMag_eq_natAbs_sext h⟩

theorem coordinatePair_eq {lat lng : Nat} (hlat : lat < 2 ^ 32) (hlng : lng < 2 ^ 32) (signed : Bool) :
    coordinatePair signed lat lng = pairResponse (coordinateValue signed lat) (coordinateValue signed lng) := by
  obtain ⟨hlatNeg, hlatMag⟩ := coordinate_eq hlat signed
  obtain ⟨hlngNeg, hlngMag⟩ := coordinate_eq hlng signed
  rw [coordinatePair, hlatNeg, hlatMag, hlngNeg, hlngMag]
  rfl

/-- R124: the two forms of rounding are one, with the divisor's power of two cancelled. -/
theorem floatTenths_eq_roundHalfUp (fe fsig : Nat) :
    floatTenths fe fsig = roundHalfUp (10 * fsig * 2 ^ fe) (2 ^ 150) := by
  rw [roundHalfUp]
  by_cases h : 150 ≤ fe
  · have hsplit : 10 * fsig * 2 ^ fe = 10 * fsig * 2 ^ (fe - 150) * 2 ^ 150 := by
      rw [mul_assoc _ (2 ^ (fe - 150)), ← pow_add, Nat.sub_add_cancel h]
    rw [floatTenths_of_ge h, hsplit]
    generalize 10 * fsig * 2 ^ (fe - 150) = n
    omega
  · have hsplit : (2 : Nat) ^ 150 = 2 * 2 ^ (149 - fe) * 2 ^ fe := by
      rw [mul_assoc, ← pow_add, ← pow_succ']
      congr 1
      omega
    rw [floatTenths_of_lt (Nat.lt_of_not_le h), hsplit]
    generalize 2 ^ (149 - fe) = d
    have hnum : 2 * (10 * fsig * 2 ^ fe) + 2 * d * 2 ^ fe = 2 * 2 ^ fe * (10 * fsig + d) := by ring
    have hden : 2 * (2 * d * 2 ^ fe) = 2 * 2 ^ fe * (2 * d) := by ring
    rw [hnum, hden, Nat.mul_div_mul_left _ _ (Nat.mul_pos two_pos (Nat.two_pow_pos fe))]

/-- R121: the three fields of the four bytes, each from the bytes that hold it. -/
theorem float_fields_operand32 (b0 b1 b2 b3 : Byte) :
    floatSign (operand32 b0 b1 b2 b3) = decide (128 ≤ b3.toNat) ∧
      floatExponent (operand32 b0 b1 b2 b3) = b3.toNat % 128 * 2 + b2.toNat / 128 ∧
      floatFraction (operand32 b0 b1 b2 b3) = b2.toNat % 128 * 2 ^ 16 + b1.toNat * 2 ^ 8 + b0.toNat := by
  have hb0 : b0.toNat < 2 ^ 8 := b0.isLt
  have hb1 : b1.toNat < 2 ^ 8 := b1.isLt
  have hb2 : b2.toNat < 2 ^ 8 := b2.isLt
  have hb3 : b3.toNat < 2 ^ 8 := b3.isLt
  refine ⟨?_, ?_, ?_⟩
  · rw [floatSign_operand32, ← BitVec.msb_eq_getLsbD_last b3, BitVec.msb_eq_decide]
  · rw [floatExponent_eq, operand32]
    omega
  · rw [floatFraction_eq, operand32]
    omega

theorem floatResponse_eq (p : Nat) :
    floatResponse p = fieldsResponse (floatSign p) (floatExponent p) (floatFraction p) := by
  have hwarn : exponentWarning (floatExponent p) = decide (floatExponent p = 255) := rfl
  rw [floatResponse, floatTenths_eq_roundHalfUp, hwarn, floatSignificand, Nat.add_comm _ (2 ^ 23)]
  rfl

/-- R141: the flags are the byte's own bits, the highest first. -/
theorem flagsOf_toNat (b : Byte) : flagsOf b.toNat = Vector.ofFn fun k => b.getMsbD k := by
  refine Vector.ext fun k hk => ?_
  have hflag : (flagsOf b.toNat)[k] = bit b.toNat (7 - k) := flagsOf_getElem b.toNat ⟨k, hk⟩
  rw [hflag, bit_eq_testBit, Vector.getElem_ofFn, BitVec.getMsbD, decide_eq_true hk, Bool.true_and]
  rfl

/-- R142: the codes up to 4 are those of the table. -/
theorem rtcSource_isSome_iff (c : Nat) : (rtcSource c).isSome = true ↔ c ≤ 4 := by
  have hmapped : ∀ c ≤ 4, (rtcSource c).isSome = true := by decide
  by_cases h : c ≤ 4
  · exact iff_of_true (hmapped c h) h
  · rw [rtcSource_of_gt (Nat.lt_of_not_le h)]
    exact iff_of_false nofun h

theorem fdu_rtcsrc (p : Params) (b : Byte) : fdu p (encode .rtcsrc) [b] =
    if b.toNat ≤ 4 then unsignedNumber b.toNat else .error (.unknownEnumValue b) := by
  simp only [← rtcSource_isSome_iff]
  rfl

/-! ### The machine and the pure function on a slice of the right length -/

/-- R36, R37, R52: an operand is the value of its bytes in the operation's order. -/
theorem operand32_eq_ube (b0 b1 b2 b3 : Byte) : operand32 b3 b2 b1 b0 = ube [b0, b1, b2, b3] := by
  rw [operand32_eq_ule, ube_eq_ule_reverse]
  rfl

theorem datapath_eq_fdu {i : Instr} {q : Request} (hw : width i = some q.len.toNat) (p : Params) :
    datapath i p q = (fdu p (encode i) ((List.range q.len.toNat).map q.byte)).mapError .raise := by
  have len {w : Nat} (h : width i = some w) : q.len.toNat = w := Option.some.inj (hw.symm.trans h)
  have number {v v' : Nat} (h : v = v') :
      (.ok (Response.number false v) : Except Stop Response) = .ok (Response.number false v') := h ▸ rfl
  cases i with
  | uint8 | uint16 =>
    rw [len rfl]
    exact littleEndianInteger_of_len (len rfl) (by decide)
  | uint32 | unixtime =>
    rw [len rfl]
    exact (littleEndianInteger_of_len (len rfl) (by decide)).trans (number (operand32_eq_ule _ _ _ _).symm)
  | uint16be =>
    rw [len rfl]
    exact (bigEndianInteger_of_len (len rfl) (by decide)).trans (number (operand16_eq_ube _ _).symm)
  | uint32be =>
    rw [len rfl]
    exact (bigEndianInteger_of_len (len rfl) (by decide)).trans (number (operand32_eq_ube _ _ _ _).symm)
  | uint16fp1 | humidity =>
    rw [len rfl]
    exact scaledUnsigned16_of_len (len rfl)
  | temperature =>
    have hresponse : temperatureResponse (ube [q.byte 0, q.byte 1]) =
        tenthsOfHundredths (sext 16 (operand16 (q.byte 1) (q.byte 0))) := by
      rw [operand16_eq_ube]
      exact temperatureResponse_eq (ube_lt _)
    rw [len rfl]
    exact (temperatureDatapath_of_len (len rfl)).trans (congrArg Except.ok hresponse)
  | latlng =>
    rw [len rfl]
    refine (latlngDatapath_of_len (len rfl)).trans (congrArg Except.ok ?_)
    rw [← operand32_eq_ule, ← operand32_eq_ule]
    exact coordinatePair_eq (operand32_lt _ _ _ _) (operand32_lt _ _ _ _) _
  | rawfloat =>
    obtain ⟨hsign, hexp, hfrac⟩ := float_fields_operand32 (q.byte 0) (q.byte 1) (q.byte 2) (q.byte 3)
    have hresponse := floatResponse_eq (operand32 (q.byte 0) (q.byte 1) (q.byte 2) (q.byte 3))
    rw [hsign, hexp, hfrac, operand32_eq_ule] at hresponse
    rw [len rfl]
    exact (rawfloatDatapath_of_len (len rfl)).trans (congrArg Except.ok hresponse)
  | bitmap =>
    have hresponse := congrArg (fun f => { Response.zero with flags := f }) (flagsOf_toNat (q.byte 0))
    rw [len rfl]
    exact (bitmapDatapath_of_len (len rfl)).trans (congrArg Except.ok hresponse)
  | rtcsrc =>
    rw [len rfl]
    refine (rtcsrcDatapath_of_len (len rfl)).trans (Eq.trans ?_ (congrArg (Except.mapError Stop.raise)
      (fdu_rtcsrc p (q.byte 0)).symm))
    split <;> rfl
  | reservedD | reservedE | reservedF => cases hw

/-- R10, R12: what an operation answers to any slice is the pure function of the slice. -/
theorem exec_eq_fdu {i : Instr} {s : State} {bs : List Byte} (hlen : s.request.len.toNat = min bs.length 15)
    (hbytes : ∀ k, k < min bs.length 8 → s.request.byte k = bs.getD k 0) :
    exec i s = .next { s with answer := fdu s.params (encode i) bs } := by
  cases hw : width i with
  | none =>
    have hi : i.wf = false := congrArg Option.isSome hw
    rw [exec_of_wf_eq_false hi, fdu_of_reserved hi]
  | some w =>
    obtain ⟨-, hw8⟩ : 1 ≤ w ∧ w ≤ 8 := (codeAndWidth i).2 w hw
    by_cases hbs : bs.length = w
    · subst hbs
      have hfull : s.request.len.toNat = bs.length := by omega
      have hslice : (List.range s.request.len.toNat).map s.request.byte = bs := by
        rw [hfull]
        exact map_range_eq_of_getD fun k hk => hbytes k (by omega)
      have hfdu := datapath_eq_fdu (hfull ▸ hw) s.params
      rw [hslice] at hfdu
      exact exec_of_datapath hfdu
    · have hports : s.request.len = BitVec.ofNat 4 (min bs.length 15) := by
        rw [← hlen, BitVec.ofNat_toNat, BitVec.setWidth_eq]
      rw [exec_of_width_ne hw (by omega), fdu_of_length_ne hw hbs, hports]
      rfl

/-- The same for a slice the host presents. -/
theorem exec_ofSlice_eq_fdu {i : Instr} {s : State} {op : BitVec 4} {bs : List Byte}
    (h : s.request = Request.ofSlice op bs) :
    exec i s = .next { s with answer := fdu s.params (encode i) bs } :=
  exec_eq_fdu (h ▸ Request.len_ofSlice op bs) fun _ hk => h ▸ Request.byte_ofSlice op bs (by omega)

/-- Settles O50: OPSEL is the code of the operation it decodes to. -/
theorem machineRefinesPureFunction : Obligations.MachineRefinesPureFunction := by
  intro s bs hlen hbytes
  rw [exec_eq_fdu hlen hbytes, encode_decode]

/-- Settles O49: nine bytes are more than any width. -/
theorem longSlicesFault : Obligations.LongSlicesFault := by
  intro i s bs hi hlong
  obtain ⟨w, hw⟩ := Option.isSome_iff_exists.1 hi
  have hle : w ≤ 8 := ((codeAndWidth i).2 w hw).2
  have hne : (Request.ofSlice (encode i) bs).len.toNat ≠ w := by
    rw [Request.len_ofSlice]
    omega
  exact exec_of_width_ne hw hne

/-- Settles O44: with LEN the width both states refine the same slice, and otherwise both take the fault of LEN or of the
code. -/
theorem laneIndependence : Obligations.LaneIndependence := by
  intro i s t hparams hlen hbytes
  by_cases hw : width i = some s.request.len.toNat
  · have hslice : (List.range s.request.len.toNat).map s.request.byte =
        (List.range t.request.len.toNat).map t.request.byte := by
      rw [← hlen]
      exact List.map_congr_left fun k hk => hbytes hw k (List.mem_range.1 hk)
    refine ⟨_, exec_of_datapath (datapath_eq_fdu hw s.params), exec_of_datapath ?_⟩
    rw [datapath_eq_fdu (hlen ▸ hw), hslice, hparams]
  · cases hwidth : width i with
    | none =>
      have hi : i.wf = false := congrArg Option.isSome hwidth
      exact ⟨_, exec_of_wf_eq_false hi s, exec_of_wf_eq_false hi t⟩
    | some w =>
      have hne : s.request.len.toNat ≠ w := fun h => hw (hwidth.trans (congrArg some h.symm))
      refine ⟨_, exec_of_width_ne hwidth hne, ?_⟩
      rw [exec_of_width_ne hwidth (hlen ▸ hne), hlen]

end Sys2Proof.Machine

/-! PROOFS. The reference host: a run is the pure function of its slices, after one check of the total length
(R160 to R162, R177): O54, O55, O56. -/

namespace Sys2Proof.Machine

/-! ### A run is the pure function of its slices -/

/-- What the pure function answers to a field of a payload (R160). -/
def fieldAnswer (p : Params) (payload : List Byte) (f : Instr × Nat) : Answer :=
  fdu p (encode f.1) (fieldSlice payload f.1 f.2)

/-- How a host ends when the pure answers are all results, or when one is a fault (R162). -/
def hostOutcome : Except FduFault (List Response) → HostOutcome
  | .ok rs => .record rs
  | .error f => .fieldFault f

/-- One request of a run. -/
theorem step_drive_fieldRequest (s : State) (payload : List Byte) (f : Instr × Nat) :
    step (s.drive (fieldRequest payload f)) =
      .next { s with request := fieldRequest payload f, answer := fieldAnswer s.params payload f } := by
  rw [step, State.present_drive, exec_ofSlice_eq_fdu (op := encode f.1) (bs := fieldSlice payload f.1 f.2) rfl,
    encode_decode]
  rfl

/-- Requests issued in order answer as the pure function does: each leaves the parameters as they were. -/
theorem runRequests_eq (s : State) (payload : List Byte) (script : Script) :
    runRequests (script.map (fieldRequest payload)) s = hostOutcome (script.mapM (fieldAnswer s.params payload)) := by
  induction script generalizing s with
  | nil => rfl
  | cons f script ih =>
    simp only [List.map_cons, runRequests, step_drive_fieldRequest, List.mapM_cons]
    cases hf : fieldAnswer s.params payload f with
    | error e => rfl
    | ok r =>
      simp only [ih]
      cases script.mapM (fieldAnswer s.params payload) <;> rfl

theorem runScript_of_short {payload : List Byte} {script : Script} (h : payload.length < bytesNeeded script) (s : State) :
    runScript s payload script = .bufferTooShort := if_pos h

theorem runScript_of_long {payload : List Byte} {script : Script} (h : bytesNeeded script ≤ payload.length) (s : State) :
    runScript s payload script = hostOutcome (script.mapM (fieldAnswer s.params payload)) :=
  (if_neg h.not_gt).trans (runRequests_eq s payload script)

/-- Settles O55: the run is cut off by the length check or is that of the pure function. -/
theorem hostRunRefinesPureRun : Obligations.HostRunRefinesPureRun := by
  intro s payload script
  by_cases h : payload.length < bytesNeeded script
  · rw [runScript_of_short h, if_pos h]
  · rw [runScript_of_long (Nat.le_of_not_lt h), if_neg h]
    rfl

/-! ### The length check (R161) -/

/-- No request is needed to end with BufferTooShort, and none ends with it. -/
theorem hostOutcome_ne_bufferTooShort (x : Except FduFault (List Response)) : hostOutcome x ≠ .bufferTooShort := by
  cases x <;> nofun

theorem runScript_eq_bufferTooShort_iff (s : State) (payload : List Byte) (script : Script) :
    runScript s payload script = .bufferTooShort ↔ payload.length < bytesNeeded script := by
  refine ⟨fun h => ?_, fun h => runScript_of_short h s⟩
  by_contra hlong
  rw [runScript_of_long (Nat.le_of_not_lt hlong)] at h
  exact hostOutcome_ne_bufferTooShort _ h

/-- Laid out from an offset on, the fields need the offset and the sum of their widths. -/
theorem max_bytesNeeded_layoutFrom (off : Nat) (is : List Instr) :
    max off (bytesNeeded (layoutFrom off is)) = off + (is.map fun i => (width i).getD 0).sum := by
  induction is generalizing off with
  | nil => exact Nat.max_eq_left (Nat.zero_le off)
  | cons i is ih =>
    rw [layoutFrom, bytesNeeded, ih, List.map_cons, List.sum_cons]
    omega

/-- A script that needs no more than the payload finds each of its slices in it. -/
theorem field_in_payload {script : Script} {f : Instr × Nat} (h : f ∈ script) :
    f.2 + (width f.1).getD 0 ≤ bytesNeeded script := by
  induction script with
  | nil => cases h
  | cons g script ih =>
    cases h with
    | head => exact Nat.le_max_left _ _
    | tail _ h => exact (ih h).trans (Nat.le_max_right _ _)

theorem fieldSlice_append {payload : List Byte} {i : Instr} {off : Nat} (h : off + (width i).getD 0 ≤ payload.length)
    (extra : List Byte) : fieldSlice (payload ++ extra) i off = fieldSlice payload i off := by
  rw [fieldSlice, fieldSlice, List.drop_append_of_le_length (by omega), List.take_append_of_le_length]
  rw [List.length_drop]
  omega

theorem fieldRequest_append {payload : List Byte} {f : Instr × Nat} (h : f.2 + (width f.1).getD 0 ≤ payload.length)
    (extra : List Byte) : fieldRequest (payload ++ extra) f = fieldRequest payload f := by
  rw [fieldRequest, fieldRequest, fieldSlice_append h]

theorem length_fieldSlice {payload : List Byte} {i : Instr} {off : Nat} (h : off + (width i).getD 0 ≤ payload.length) :
    (fieldSlice payload i off).length = (width i).getD 0 := by
  rw [fieldSlice, List.length_take, List.length_drop]
  omega

/-- Settles O54: a run whose payload is long enough reads no byte past the need. -/
theorem hostChecksTotalLength : Obligations.HostChecksTotalLength := by
  refine ⟨runScript_eq_bufferTooShort_iff, fun is => ?_, fun s payload extra script hlong => ?_⟩
  · rw [← Nat.zero_max (bytesNeeded _), max_bytesNeeded_layoutFrom, Nat.zero_add]
  · have hlong' : bytesNeeded script ≤ (payload ++ extra).length := by
      rw [List.length_append]
      omega
    have hsame : script.map (fieldRequest (payload ++ extra)) = script.map (fieldRequest payload) :=
      List.map_congr_left fun f hf => fieldRequest_append ((field_in_payload hf).trans hlong) extra
    rw [runScript, runScript, if_neg hlong'.not_gt, if_neg hlong.not_gt, hsame]

/-! ### No wrong length (R160) -/

/-- A list of answers ends with a fault only if one of them is that fault. -/
theorem exists_of_mapM_eq_error {α β ε : Type} {f : α → Except ε β} {l : List α} {e : ε} (h : l.mapM f = .error e) :
    ∃ a ∈ l, f a = .error e := by
  induction l with
  | nil => cases h
  | cons a l ih =>
    rw [List.mapM_cons] at h
    cases ha : f a with
    | error e' =>
      rw [ha] at h
      exact ⟨a, List.mem_cons_self, ha.trans (congrArg Except.error (Except.error.inj h))⟩
    | ok b =>
      have htail : l.mapM f = .error e := by
        rw [ha] at h
        cases hl : l.mapM f with
        | error e' =>
          rw [hl] at h
          exact h
        | ok bs =>
          rw [hl] at h
          cases h
      obtain ⟨c, hc, hce⟩ := ih htail
      exact ⟨c, List.mem_cons_of_mem a hc, hce⟩

/-- R152: a slice of the operation's width is not answered with the length fault. -/
theorem fdu_ne_invalidFieldLength {i : Instr} {w : Nat} {bs : List Byte} (hw : width i = some w) (hbs : bs.length = w)
    (p : Params) (l : BitVec 4) : fdu p (encode i) bs ≠ .error (.invalidFieldLength l) := by
  intro hfdu
  obtain ⟨-, hw8⟩ : 1 ≤ w ∧ w ≤ 8 := (codeAndWidth i).2 w hw
  have hexec := exec_ofSlice_eq_fdu (i := i) (op := encode i) (bs := bs)
    (s := { State.reset with params := p, request := Request.ofSlice (encode i) bs }) rfl
  have hcause : Cause i (Request.ofSlice (encode i) bs) (.error (.invalidFieldLength l)) := hfdu ▸ cause_of_exec hexec
  obtain ⟨-, v, hv, hne⟩ := hcause
  obtain rfl : w = v := Option.some.inj (hw.symm.trans hv)
  exact hne ((Request.len_ofSlice _ _).trans (by omega))

/-- Settles O56: past the length check every slice has its operation's width. -/
theorem hostNeverSeesWrongLength : Obligations.HostNeverSeesWrongLength := by
  intro s payload script l hwf hrun
  by_cases h : payload.length < bytesNeeded script
  · rw [runScript_of_short h] at hrun
    cases hrun
  · rw [runScript_of_long (Nat.le_of_not_lt h)] at hrun
    cases hanswers : script.mapM (fieldAnswer s.params payload) with
    | ok rs =>
      rw [hanswers] at hrun
      cases hrun
    | error e =>
      rw [hanswers] at hrun
      obtain rfl : e = .invalidFieldLength l := HostOutcome.fieldFault.inj hrun
      obtain ⟨f, hf, hfault⟩ := exists_of_mapM_eq_error hanswers
      obtain ⟨w, hw⟩ := Option.isSome_iff_exists.1 (hwf f hf)
      have hslice := length_fieldSlice ((field_in_payload hf).trans (Nat.le_of_not_lt h))
      rw [hw] at hslice
      exact fdu_ne_invalidFieldLength hw hslice s.params l hfault

end Sys2Proof.Machine

/-! PROOFS. The one-decimal text of a result (R8, R14): O57. -/

namespace Sys2Proof.Machine

theorem digitChar_inj {a b : Nat} (ha : a < 10) (hb : b < 10) (h : a.digitChar = b.digitChar) : a = b := by
  rw [← Nat.toNat_digitChar_sub_48_of_lt_ten ha, h, Nat.toNat_digitChar_sub_48_of_lt_ten hb]

theorem toDigits_inj {m n : Nat} (h : Nat.toDigits 10 m = Nat.toDigits 10 n) : m = n := by
  rw [← Nat.ofDigitChars_ten_toDigits (n := m), h, Nat.ofDigitChars_ten_toDigits]

/-- No digit is the sign. -/
theorem minus_not_mem_toDigits (n : Nat) : '-' ∉ Nat.toDigits 10 n := fun h =>
  absurd (Nat.isDigit_of_mem_toDigits (by decide) (by decide) h) (by decide)

/-- The part of the text before the point; `text1_eq` ties it to `text1`. -/
def textInteger (neg : Bool) (n : Nat) : List Char := (if neg then ['-'] else []) ++ Nat.toDigits 10 n

theorem text1_eq (neg : Bool) (t : Nat) : text1 neg t = textInteger neg (t / 10) ++ ['.', Nat.digitChar (t % 10)] := rfl

/-- The sign stands in the text if and only if the result is negative. -/
theorem minus_mem_textInteger (neg : Bool) (n : Nat) : '-' ∈ textInteger neg n ↔ neg = true := by
  cases neg <;> simp [textInteger, minus_not_mem_toDigits]

theorem textInteger_inj {m n : Bool} {a b : Nat} (h : textInteger m a = textInteger n b) : m = n ∧ a = b := by
  have hsign : m = n := by
    rw [Bool.eq_iff_iff, ← minus_mem_textInteger m a, h, minus_mem_textInteger]
  subst hsign
  exact ⟨rfl, toDigits_inj (List.append_cancel_left h)⟩

theorem text1_inj {m n : Bool} {t u : Nat} (h : text1 m t = text1 n u) : m = n ∧ t = u := by
  rw [text1_eq, text1_eq] at h
  obtain ⟨hinteger, htenth⟩ := List.append_inj' h rfl
  obtain ⟨hsign, hquot⟩ := textInteger_inj hinteger
  have hlast : Nat.digitChar (t % 10) = Nat.digitChar (u % 10) := by simpa using htenth
  have hrem : t % 10 = u % 10 := digitChar_inj (Nat.mod_lt _ (by decide)) (Nat.mod_lt _ (by decide)) hlast
  exact ⟨hsign, by omega⟩

/-- The first digit of a positive number is not 0. -/
theorem head_toDigits_ne_zero {n : Nat} (h : 0 < n) : (Nat.toDigits 10 n).head? ≠ some '0' := by
  induction n using Nat.strongRecOn with
  | ind n ih =>
    by_cases hn : n < 10
    · rw [Nat.toDigits_of_lt_base hn, List.head?_cons, ne_eq, Option.some.injEq, Nat.digitChar_eq_zero]
      exact h.ne'
    · rw [Nat.toDigits_of_base_le (by decide) (Nat.le_of_not_lt hn), List.head?_append_of_ne_nil _ Nat.toDigits_ne_nil]
      exact ih (n / 10) (by omega) (by omega)

/-- Settles O57: the text ends in a point and one digit, and what stands before them has the sign and the other digits. -/
theorem textDeterminesTheResult : Obligations.TextDeterminesTheResult := by
  refine ⟨fun _ _ _ _ => text1_inj, fun t ht => ?_⟩
  have hinteger : textInteger false (t / 10) = Nat.toDigits 10 (t / 10) := rfl
  rw [text1_eq, hinteger, List.head?_append_of_ne_nil _ Nat.toDigits_ne_nil]
  exact head_toDigits_ne_zero (by omega)

end Sys2Proof.Machine
